-- ==== Sys2Proof/Word.lean ====
section
/-! DEFINITION. The word types of the machine and the one test the spec makes on a whole register value.
Every value of the spec is an unsigned bit vector (00_scope.md R9, section 5 "Signedness"); bit 0 is the least
significant bit (00_scope.md R8). -/

namespace Sys2Proof

/-- One byte of an instruction word laid out in the program text (20_memory.md R62). -/
abbrev Byte := BitVec 8

/-- An instruction word: every instruction of the spec is 32 bits (30_encoding.md R71, R74). -/
abbrev InsnWord := BitVec 32

/-- A 64-bit value: the identification register (10_state.md R10), a general register (R43), the pc (R44). -/
abbrev Word := BitVec 64

/-- A one-bit control field, tested as `== '1'` (00_scope.md R6, R9; 10_state.md R46). -/
abbrev Bit := BitVec 1

/-- `IsZero(v)`: true iff every bit of `v` is 0 (00_scope.md section 5, the source's helper functions). -/
def isZero (v : Word) : Bool := v == 0#64

end Sys2Proof
end

