-- ==== Sys2Proof/Config.lean ====
section
/-! DEFINITION. What an implementation fixes, and the free values.
`Config` holds the parameters that are constant for a launch (00_scope.md R5, R6, R7; 92_eei_decisions.md "Open
parameters, gathered"). The `Config.free…` constants below have no body: nothing can be proved of their values, so
what is proved of the machine after reset holds for every implementation. -/

namespace Sys2Proof

/-- The four Exception levels, the values of `PSTATE.EL` and the targets of traps (10_state.md R45, 60_exceptions.md R109). -/
inductive ExceptionLevel where
  | el0 | el1 | el2 | el3
deriving DecidableEq, Repr, Inhabited

/-- The position of a level in the order of privilege, EL0 the least and EL3 the most.
PRESUMED, log entry 17 (00_scope.md glossary marks the ordering as general knowledge, 93_implementation_defined.md G9). No step uses it:
statements about trap targets do. -/
def ExceptionLevel.rank : ExceptionLevel → Nat
  | .el0 => 0
  | .el1 => 1
  | .el2 => 2
  | .el3 => 3

/-- The parameter `insn_endianness` (20_memory.md R62, D16): how an instruction word is laid out as bytes. -/
inductive Endianness where
  | little | big
deriving DecidableEq, Repr

/-- The configuration `cfg` of a launch. It is not architectural state: no step changes it. -/
structure Config where
  /-- `IDMMFR4`, the value of ID_AA64MMFR4_EL1 (00_scope.md R5, 10_state.md R41). -/
  idmmfr4 : Word
  /-- `IsFeatureImplemented(FEAT_AA64)`, true in every launch (00_scope.md R2, D1). -/
  featAA64 : Bool
  /-- `IsFeatureImplemented(FEAT_IDST)`: EL0 reads of identification registers trap (00_scope.md R6). -/
  featIDST : Bool
  /-- `IsFeatureImplemented(FEAT_IDTE3)`: the trap SCR_EL3.TID3 exists (00_scope.md R6). -/
  featIDTE3 : Bool
  /-- `IsFeatureImplemented(FEAT_FGT)` (00_scope.md R6). -/
  featFGT : Bool
  /-- `HaveEL(EL3)` (00_scope.md R6). -/
  haveEL3 : Bool
  /-- `boolean IMPLEMENTATION_DEFINED "ID_AA64MMFR4_EL1 trapped by HCR_EL2.TID3"` (00_scope.md R6, D12). -/
  tid3TrapsZeroReg : Bool
  /-- FEAT_VHE, constrained by 10_state.md R25. -/
  featVHE : Bool
  /-- FEAT_NV, constrained by 10_state.md R24 and R27. -/
  featNV : Bool
  /-- FEAT_NV2, constrained by 10_state.md R27. -/
  featNV2 : Bool
  /-- FEAT_IESB, constrained by 10_state.md R34, R35 and R38. -/
  featIESB : Bool
  /-- `from_armv9_5` (00_scope.md R7, D23). -/
  fromArmv9_5 : Bool
  /-- `from_armv9_6` (00_scope.md R7, D23). -/
  fromArmv9_6 : Bool
  /-- `insn_endianness` (20_memory.md R62, D16). -/
  insnEndianness : Endianness
deriving DecidableEq, Repr

/-- The state inputs of one step: the values in effect when the instruction executes, which may differ from step to step
(00_scope.md R6; 10_state.md R46; 70_reset_and_hazards.md R123). No law holds between them (60_exceptions.md R112, D11). The
three control fields are single bits because the spec gives no position of theirs in HCR_EL2 or SCR_EL3
(91_not_in_source.md N25). -/
structure StepInputs where
  /-- `EL2Enabled()`. -/
  el2Enabled : Bool
  /-- `HCR_EL2.TGE`. -/
  hcrEl2Tge : Bit
  /-- `HCR_EL2.TID3`. -/
  hcrEl2Tid3 : Bit
  /-- `SCR_EL3.TID3`. -/
  scrEl3Tid3 : Bit
  /-- `EL3SDDUndef()`. -/
  el3SddUndef : Bool
  /-- `EL3SDDUndefPriority()`. -/
  el3SddUndefPriority : Bool
deriving DecidableEq, Repr, Inhabited

/-- Where the implicit Error synchronization event stands relative to the exception (10_state.md R34). -/
inductive ErrorSyncPlacement where
  | before | after
deriving DecidableEq, Repr, Inhabited

/-! ### Free values: constants with no body (DESIGN CHOICE; log entries 3, 4 and 14) -/

/-- The value this implementation's ID_AA64MMFR4_EL1 would have; IMPLEMENTATION DEFINED (00_scope.md R5). -/
opaque Config.freeIdmmfr4 : Word
/-- Whether this implementation has FEAT_IDST (00_scope.md R6). -/
opaque Config.freeFeatIDST : Bool
/-- Whether this implementation has FEAT_IDTE3 (00_scope.md R6). -/
opaque Config.freeFeatIDTE3 : Bool
/-- Whether this implementation has FEAT_FGT (00_scope.md R6). -/
opaque Config.freeFeatFGT : Bool
/-- This implementation's choice for trapping an all-zero register (00_scope.md R6, D12). -/
opaque Config.freeTid3TrapsZeroReg : Bool
/-- Whether this implementation has FEAT_VHE (10_state.md R25). -/
opaque Config.freeFeatVHE : Bool
/-- Whether this implementation has FEAT_NV (10_state.md R24, R27). -/
opaque Config.freeFeatNV : Bool
/-- Whether this implementation has FEAT_NV2 (10_state.md R27). -/
opaque Config.freeFeatNV2 : Bool
/-- Whether this implementation has FEAT_IESB (10_state.md R34). -/
opaque Config.freeFeatIESB : Bool
/-- Whether this implementation is from Armv9.5 on (00_scope.md R7). -/
opaque Config.freeFromArmv9_5 : Bool
/-- Whether this implementation is from Armv9.6 on (00_scope.md R7). -/
opaque Config.freeFromArmv9_6 : Bool

/-- Where the Error synchronization event falls in a case no row of the EIESB table describes, on the given occasion:
"the placement of the event" is left open (10_state.md R36; 93_implementation_defined.md I22 to I24). -/
opaque Config.freeErrorSyncPlacement : Nat → ErrorSyncPlacement

/-- The state inputs of a step for which no schedule says them, numbered by how many such steps there were before
(00_scope.md R6, D11, D13; log entry 3). -/
opaque Config.freeStepInputs : Nat → StepInputs

/-- The configuration made of the free values. FEAT_AA64 holds by the launch premise (00_scope.md R2).
EL3 is implemented because the machine after reset stands at EL3 (log entry 2), and the byte order is the
parameter's default (20_memory.md R62, log entry 5). -/
def Config.free : Config where
  idmmfr4 := Config.freeIdmmfr4
  featAA64 := true
  featIDST := Config.freeFeatIDST
  featIDTE3 := Config.freeFeatIDTE3
  featFGT := Config.freeFeatFGT
  haveEL3 := true
  tid3TrapsZeroReg := Config.freeTid3TrapsZeroReg
  featVHE := Config.freeFeatVHE
  featNV := Config.freeFeatNV
  featNV2 := Config.freeFeatNV2
  featIESB := Config.freeFeatIESB
  fromArmv9_5 := Config.freeFromArmv9_5
  fromArmv9_6 := Config.freeFromArmv9_6
  insnEndianness := .little

/-- A configuration of the formerly reserved register, "RES0 from EL1, EL2, and EL3": the all-zero value, with none of the
features (00_scope.md R3, 30_encoding.md R75 case 1). -/
def Config.formerlyReserved : Config where
  idmmfr4 := 0#64
  featAA64 := true
  featIDST := false
  featIDTE3 := false
  featFGT := false
  haveEL3 := true
  tid3TrapsZeroReg := false
  featVHE := false
  featNV := false
  featNV2 := false
  featIESB := false
  fromArmv9_5 := false
  fromArmv9_6 := false
  insnEndianness := .little

end Sys2Proof
end

