-- ==== Sys2Proof/Syntax.lean ====
section
/-! DEFINITION. The instructions: one constructor per row of spec/opcode_table.json (30_encoding.md R77 has one entry). -/

namespace Sys2Proof

/-- The instruction set of the spec. -/
inductive Instr where
  /-- `MRS <Xt>, ID_AA64MMFR4_EL1`: read the register into general register number `t`, 0 to 31, where 31 names XZR
  (30_encoding.md R72; 40_mrs_id_aa64mmfr4_el1.md R80). There is no immediate and no source operand (R73). -/
  | mrsIdAa64mmfr4El1 (t : Fin 32)
deriving DecidableEq, Repr

end Sys2Proof
end

