-- ==== Sys2Proof/Decode.lean ====
section
/-! DEFINITION. Decoding: total on any bytes, refusing by name; and after it the encoder, from the same tables.
The key of the register is the spec's own (30_encoding.md R70). Where its five fields lie in the 32-bit word is PRESUMED, the
default of the parameter `mrs_word_layout` (30_encoding.md R71; log entry 6), and the byte order is the parameter
`insn_endianness` (20_memory.md R62; log entry 5). -/

namespace Sys2Proof

/-- A point of the System register encoding space (20_memory.md R60). -/
structure SysRegKey where
  op0 : BitVec 2
  op1 : BitVec 3
  crn : BitVec 4
  crm : BitVec 4
  op2 : BitVec 3
deriving DecidableEq, Repr

/-- The key of ID_AA64MMFR4_EL1 (30_encoding.md R70). -/
def idMmfr4Key : SysRegKey := ⟨0b11#2, 0b000#3, 0b0000#4, 0b0111#4, 0b100#3⟩

/-- The fields of an instruction word (30_encoding.md R71). -/
structure MrsWordFields where
  /-- bits [31:22] -/
  fixed : BitVec 10
  /-- bit [21]: 1 for the read form, 0 for the write form -/
  l : BitVec 1
  /-- bits [20:5] -/
  key : SysRegKey
  /-- bits [4:0] -/
  rt : BitVec 5
deriving DecidableEq, Repr

/-- The value of the bits [31:22] (30_encoding.md R71). -/
def mrsFixedBits : BitVec 10 := 0b1101010100#10

/-- The fields of a word (30_encoding.md R71). -/
def fieldsOfWord (w : InsnWord) : MrsWordFields where
  fixed := w.extractLsb' 22 10
  l := w.extractLsb' 21 1
  key :=
    { op0 := w.extractLsb' 19 2
      op1 := w.extractLsb' 16 3
      crn := w.extractLsb' 12 4
      crm := w.extractLsb' 8 4
      op2 := w.extractLsb' 5 3 }
  rt := w.extractLsb' 0 5

/-- The word of given fields (30_encoding.md R71). -/
def wordOfFields (f : MrsWordFields) : InsnWord :=
  f.fixed ++ f.l ++ f.key.op0 ++ f.key.op1 ++ f.key.crn ++ f.key.crm ++ f.key.op2 ++ f.rt

/-- Why the decoder refuses: the word spells no instruction of this spec. It is not called illegal and is not given the meaning
UNDEFINED, since it may be a good instruction the spec does not describe (30_encoding.md R75, D14). -/
inductive DecodeRefusal where
  /-- There are fewer than four bytes. -/
  | truncated (bytes : Nat)
  /-- L = 0 with the key of this register: the write form, MSR (30_encoding.md R75). -/
  | writeForm (t : Fin 32)
  /-- The bits [31:22] are those of the MRS word and the key is another. -/
  | otherKey (l : BitVec 1) (key : SysRegKey)
  /-- Any other word. -/
  | otherWord (w : InsnWord)
deriving DecidableEq, Repr

/-- Decoding one word (30_encoding.md R70, R71, R75, R77). -/
def decodeWord (w : InsnWord) : Except DecodeRefusal Instr :=
  let f := fieldsOfWord w
  if f.fixed = mrsFixedBits then
    if f.key = idMmfr4Key then
      if f.l = 1#1 then .ok (.mrsIdAa64mmfr4El1 f.rt.toFin)
      else .error (.writeForm f.rt.toFin)
    else .error (.otherKey f.l f.key)
  else .error (.otherWord w)

/-- The word of four bytes, the first from the lowest address (20_memory.md R62). -/
def wordOfBytes (e : Endianness) (b0 b1 b2 b3 : Byte) : InsnWord :=
  match e with
  | .little => b3 ++ b2 ++ b1 ++ b0
  | .big => b0 ++ b1 ++ b2 ++ b3

/-- The four bytes of a word, the lowest address first (20_memory.md R62). -/
def bytesOfWord (e : Endianness) (w : InsnWord) : List Byte :=
  match e with
  | .little => [w.extractLsb' 0 8, w.extractLsb' 8 8, w.extractLsb' 16 8, w.extractLsb' 24 8]
  | .big => [w.extractLsb' 24 8, w.extractLsb' 16 8, w.extractLsb' 8 8, w.extractLsb' 0 8]

/-- Decoding the first instruction of a list of bytes, with the bytes after it. Every instruction is four bytes long
(30_encoding.md R74). -/
def decodeBytes (e : Endianness) : List Byte → Except DecodeRefusal (Instr × List Byte)
  | b0 :: b1 :: b2 :: b3 :: rest =>
    match decodeWord (wordOfBytes e b0 b1 b2 b3) with
    | .ok i => .ok (i, rest)
    | .error r => .error r
  | bs => .error (.truncated bs.length)

/-- The instruction the decoder reads from `w`, numbered as spec/opcode_table.json numbers its bits, the bits above `nbits` zero;
laid out little-endian, the default byte order (20_memory.md R62). -/
def decodeTableWord (nbits w : Nat) : Option Instr :=
  match decodeBytes .little (bytesOfWord .little (BitVec.ofNat 32 (w % 2 ^ nbits))) with
  | .ok (i, _) => some i
  | .error _ => none

/-- The word of an instruction (30_encoding.md R70, R71): `0xD5380780 + t`. -/
def encode : Instr → InsnWord
  | .mrsIdAa64mmfr4El1 t => wordOfFields ⟨mrsFixedBits, 1#1, idMmfr4Key, BitVec.ofFin t⟩

/-- The bytes of an instruction in program order (20_memory.md R62). -/
def encodeBytes (e : Endianness) (i : Instr) : List Byte := bytesOfWord e (encode i)

end Sys2Proof
end

