-- ==== Sys2Proof/Machine/IdRegister.lean ====
section
/-! DEFINITION. The register ID_AA64MMFR4_EL1: its thirteen bit ranges, its ten fields, the values each field's table lists
and what each value means (10_state.md R10 to R41), the features those values determine (00_scope.md section 4) and what they
promise of other parts of the machine, as far as the spec's words go. The read of the register looks at none of this
(10_state.md R42): these are facts a configuration states. -/

namespace Sys2Proof

/-- The ten named fields of the register (10_state.md R11). -/
inductive IdField where
  | srmask | e3dse | rmegdi | e2h0 | nvFrac | fgwte3 | hacdbs | asid2 | eiesb | pops
deriving DecidableEq, Repr

/-- The ten fields, from the most significant down (10_state.md R11). -/
def IdField.all : List IdField :=
  [.srmask, .e3dse, .rmegdi, .e2h0, .nvFrac, .fgwte3, .hacdbs, .asid2, .eiesb, .pops]

/-- The number of a field's least significant bit; every field is four bits wide (10_state.md R11). -/
def IdField.lo : IdField → Nat
  | .srmask => 44
  | .e3dse => 36
  | .rmegdi => 28
  | .e2h0 => 24
  | .nvFrac => 20
  | .fgwte3 => 16
  | .hacdbs => 12
  | .asid2 => 8
  | .eiesb => 4
  | .pops => 0

/-- One bit range of the register: `[hi:lo]`, and the field that lies there or none where it is reserved. -/
structure RegRange where
  hi : Nat
  lo : Nat
  field : Option IdField
deriving DecidableEq, Repr

/-- The layout table: ten fields and three reserved ranges (10_state.md R11; 90_conflicts.md C1, the field headings win). -/
def idLayout : List RegRange :=
  [⟨63, 48, none⟩, ⟨47, 44, some .srmask⟩, ⟨43, 40, none⟩, ⟨39, 36, some .e3dse⟩, ⟨35, 32, none⟩,
   ⟨31, 28, some .rmegdi⟩, ⟨27, 24, some .e2h0⟩, ⟨23, 20, some .nvFrac⟩, ⟨19, 16, some .fgwte3⟩,
   ⟨15, 12, some .hacdbs⟩, ⟨11, 8, some .asid2⟩, ⟨7, 4, some .eiesb⟩, ⟨3, 0, some .pops⟩]

/-- `IDMMFR4.F`: the value of a field as a four-bit number (00_scope.md R8). -/
def idField (f : IdField) (v : Word) : BitVec 4 := v.extractLsb' f.lo 4

/-- The three reserved ranges read as zero: bits [63:48], [43:40] and [35:32] (10_state.md R12, R16, R19). -/
def res0RangesZero (v : Word) : Bool :=
  v.extractLsb' 48 16 == 0#16 && v.extractLsb' 40 4 == 0#4 && v.extractLsb' 32 4 == 0#4

/-- The values of the ten fields. -/
structure IdFields where
  srmask : BitVec 4
  e3dse : BitVec 4
  rmegdi : BitVec 4
  e2h0 : BitVec 4
  nvFrac : BitVec 4
  fgwte3 : BitVec 4
  hacdbs : BitVec 4
  asid2 : BitVec 4
  eiesb : BitVec 4
  pops : BitVec 4
deriving DecidableEq, Repr

/-- The register as a 64-bit number: each field shifted to its place, every reserved range zero (10_state.md R11). -/
def idValueOfFields (f : IdFields) : Word :=
  f.srmask.setWidth 64 <<< 44 ||| f.e3dse.setWidth 64 <<< 36 ||| f.rmegdi.setWidth 64 <<< 28 |||
  f.e2h0.setWidth 64 <<< 24 ||| f.nvFrac.setWidth 64 <<< 20 ||| f.fgwte3.setWidth 64 <<< 16 |||
  f.hacdbs.setWidth 64 <<< 12 ||| f.asid2.setWidth 64 <<< 8 ||| f.eiesb.setWidth 64 <<< 4 ||| f.pops.setWidth 64

/-- The ten fields sliced out of a register value (10_state.md R11). -/
def idFieldsOfValue (v : Word) : IdFields where
  srmask := idField .srmask v
  e3dse := idField .e3dse v
  rmegdi := idField .rmegdi v
  e2h0 := idField .e2h0 v
  nvFrac := idField .nvFrac v
  fgwte3 := idField .fgwte3 v
  hacdbs := idField .hacdbs v
  asid2 := idField .asid2 v
  eiesb := idField .eiesb v
  pops := idField .pops v

/-- The values a field's table lists, in the table's order; every other value is reserved
(10_state.md R14, R18, R21, R23, R27, R29, R31, R33, R35, R40; SRMASK and NV_frac by D24). -/
def IdField.listed : IdField → List (BitVec 4)
  | .e2h0 => [0b0000#4, 0b1110#4, 0b1111#4]
  | .nvFrac => [0b0000#4, 0b0001#4, 0b0010#4]
  | .eiesb => [0b1111#4, 0b0000#4, 0b0001#4, 0b0010#4]
  | .srmask => [0b0000#4, 0b0001#4]
  | .e3dse => [0b0000#4, 0b0001#4]
  | .rmegdi => [0b0000#4, 0b0001#4]
  | .fgwte3 => [0b0000#4, 0b0001#4]
  | .hacdbs => [0b0000#4, 0b0001#4]
  | .asid2 => [0b0000#4, 0b0001#4]
  | .pops => [0b0000#4, 0b0001#4]

/-- A field of a register value holds a listed value. -/
def fieldListed (f : IdField) (v : Word) : Bool := f.listed.contains (idField f v)

/-- The value checks of 10_state.md R42 taken alone: `wf_res0` and the ten `in` checks. -/
def passesValueChecks (v : Word) : Bool := res0RangesZero v && IdField.all.all fun f => fieldListed f v

/-- How software may use a field (10_state.md R11, column access). -/
inductive FieldAccess where
  | ro | res0
deriving DecidableEq, Repr

/-- Every named field is RO, but for EIESB, which is RO when FEAT_IESB is implemented and otherwise RES0
(10_state.md R34, R41). -/
def fieldAccess (cfg : Config) : IdField → FieldAccess
  | .eiesb => if cfg.featIESB then .ro else .res0
  | .srmask => .ro
  | .e3dse => .ro
  | .rmegdi => .ro
  | .e2h0 => .ro
  | .nvFrac => .ro
  | .fgwte3 => .ro
  | .hacdbs => .ro
  | .asid2 => .ro
  | .pops => .ro

/-! ### What the listed values mean -/

/-- The reading of a field whose table has the two rows 0b0000 (no) and 0b0001 (yes); `none` where the value is reserved. -/
def supportMeaning (v : BitVec 4) : Option Bool :=
  if v = 0b0000#4 then some false else if v = 0b0001#4 then some true else none

/-- What the E2H0 field says (10_state.md R23). -/
inductive E2h0Meaning where
  /-- 0b0000: "FEAT_E2H0 is implemented." -/
  | implemented
  /-- 0b1110: "FEAT_E2H0 is not implemented. HCR_EL2.NV1 is RES0." -/
  | notImplementedNv1Res0
  /-- 0b1111: "FEAT_E2H0 is not implemented." -/
  | notImplemented
deriving DecidableEq, Repr

/-- The E2H0 table (10_state.md R23). -/
def e2h0Meaning (v : BitVec 4) : Option E2h0Meaning :=
  if v = 0b0000#4 then some .implemented
  else if v = 0b1110#4 then some .notImplementedNv1Res0
  else if v = 0b1111#4 then some .notImplemented
  else none

/-- What the NV_frac field says (10_state.md R27). The list of restrictions that 0b0001 places is lost in the source
(91_not_in_source.md N8), so the rows are names here and no behaviour hangs on them. -/
inductive NvFracMeaning where
  /-- 0b0000: support is described in ID_AA64MMFR2_EL1.NV. -/
  | describedByIdAa64mmfr2Nv
  /-- 0b0001: FEAT_NV and FEAT_NV2 are implemented, with restrictions (the list is lost). -/
  | restricted
  /-- 0b0010: "As 0b0001 and adds stateful bits in specified _EL1 registers". -/
  | restrictedWithStatefulBits
deriving DecidableEq, Repr

/-- The NV_frac table (10_state.md R27). -/
def nvFracMeaning (v : BitVec 4) : Option NvFracMeaning :=
  if v = 0b0000#4 then some .describedByIdAa64mmfr2Nv
  else if v = 0b0001#4 then some .restricted
  else if v = 0b0010#4 then some .restrictedWithStatefulBits
  else none

/-- What the EIESB field says (10_state.md R35). -/
inductive EiesbMeaning where
  /-- 0b1111: the event might be inserted after an exception is taken to EL3. -/
  | mightBeAfterToEl3
  /-- 0b0000: "FEAT_IESB is not implemented, or behavior is not described." -/
  | notDescribed
  /-- 0b0001: the event is inserted before an exception taken to EL3. -/
  | beforeToEl3
  /-- 0b0010: "As 0b0001", and before exceptions taken to EL1 and EL2. -/
  | beforeToEl3El1El2
deriving DecidableEq, Repr

/-- The EIESB table (10_state.md R35). -/
def eiesbMeaning (v : BitVec 4) : Option EiesbMeaning :=
  if v = 0b1111#4 then some .mightBeAfterToEl3
  else if v = 0b0000#4 then some .notDescribed
  else if v = 0b0001#4 then some .beforeToEl3
  else if v = 0b0010#4 then some .beforeToEl3El1El2
  else none

/-! ### The features the source names (00_scope.md section 4) -/

/-- The 20 features the source names. -/
inductive Feature where
  | aa64 | srmask | e3dse | rmeGdi | e2h0 | vhe | nv | nv2 | nv2p1 | fgwte3 | hacdbs | asid2 | iesb
  | doubleFault | doubleFault2 | pops | mte2 | idst | idte3 | fgt
deriving DecidableEq, Repr

/-- Whether a configuration implements a feature: determined by the register where the spec says so (10_state.md R15, R18, R21,
R23, R27, R29, R31, R33, R40; D30), else a configuration field; `none` for the three the spec names as a condition only. -/
def implementsFeature (cfg : Config) : Feature → Option Bool
  | .aa64 => some cfg.featAA64
  | .srmask => some (idField .srmask cfg.idmmfr4 == 0b0001#4)
  | .e3dse => some (idField .e3dse cfg.idmmfr4 == 0b0001#4)
  | .rmeGdi => some (idField .rmegdi cfg.idmmfr4 == 0b0001#4)
  | .e2h0 => some (idField .e2h0 cfg.idmmfr4 == 0b0000#4)
  | .vhe => some cfg.featVHE
  | .nv => some cfg.featNV
  | .nv2 => some cfg.featNV2
  | .nv2p1 => some (idField .nvFrac cfg.idmmfr4 == 0b0010#4)
  | .fgwte3 => some (idField .fgwte3 cfg.idmmfr4 == 0b0001#4)
  | .hacdbs => some (idField .hacdbs cfg.idmmfr4 == 0b0001#4)
  | .asid2 => some (idField .asid2 cfg.idmmfr4 == 0b0001#4)
  | .iesb => some cfg.featIESB
  | .pops => some (idField .pops cfg.idmmfr4 == 0b0001#4)
  | .idst => some cfg.featIDST
  | .idte3 => some cfg.featIDTE3
  | .fgt => some cfg.featFGT
  | .doubleFault => none
  | .doubleFault2 => none
  | .mte2 => none

/-! ### What the fields promise of other parts of the machine -/

/-- The twelve registers whose bitwise write masks SRMASK advertises (10_state.md R13). -/
inductive MaskedRegister where
  | actlrEl1 | cpacrEl1 | sctlrEl1 | sctlr2El1 | tcrEl1 | tcr2El1
  | actlrEl2 | cptrEl2 | sctlrEl2 | sctlr2El2 | tcrEl2 | tcr2El2
deriving DecidableEq, Repr

/-- The registers for which this implementation supports bitwise write masks (10_state.md R13, R14). -/
def bitwiseWriteMaskRegisters (cfg : Config) : List MaskedRegister :=
  if idField .srmask cfg.idmmfr4 = 0b0001#4 then
    [.actlrEl1, .cpacrEl1, .sctlrEl1, .sctlr2El1, .tcrEl1, .tcr2El1,
     .actlrEl2, .cptrEl2, .sctlrEl2, .sctlr2El2, .tcrEl2, .tcr2El2]
  else []

/-- What FEAT_E3DSE adds: two register fields and two registers (10_state.md R18). -/
inductive E3dseItem where
  | scrEl3Dse | scrEl3EnDse | vsesrEl3 | vdisrEl3
deriving DecidableEq, Repr

/-- The items of FEAT_E3DSE this implementation has (10_state.md R18). -/
def e3dseItems (cfg : Config) : List E3dseItem :=
  if idField .e3dse cfg.idmmfr4 = 0b0001#4 then [.scrEl3Dse, .scrEl3EnDse, .vsesrEl3, .vdisrEl3] else []

/-- What the Granular Data Isolation GPI encodings can be (10_state.md R21). -/
inductive GdiEncodings where
  | reserved
  | reservedOrNoAccess
deriving DecidableEq, Repr

/-- The RMEGDI table (10_state.md R21); `none` where the value is reserved. -/
def gdiEncodings (cfg : Config) : Option GdiEncodings :=
  (supportMeaning (idField .rmegdi cfg.idmmfr4)).map fun b => if b then .reservedOrNoAccess else .reserved

/-- How a bit of another register behaves. -/
inductive BitBehaviour where
  /-- Reads as 0. -/
  | res0
  /-- "can be programmed to 0 or 1". -/
  | programmable
  /-- "is RES1 and behaves as though it is 1". -/
  | res1
deriving DecidableEq, Repr

/-- HCR_EL2.E2H, the three cases of 10_state.md R25. -/
def hcrEl2E2h (cfg : Config) : BitBehaviour :=
  if idField .e2h0 cfg.idmmfr4 = 0b0000#4 then
    if cfg.featVHE then .programmable else .res0
  else .res1

/-- The value a bit behaves as having when software wrote `programmed` to it (00_scope.md glossary: Effective value, RES0, RES1). -/
def effectiveBit (b : BitBehaviour) (programmed : Bit) : Bit :=
  match b with
  | .res0 => 0#1
  | .programmable => programmed
  | .res1 => 1#1

/-- HCR_EL2.NV1 is RES0 when E2H0 is 0b1110 (10_state.md R23). -/
def hcrEl2Nv1Res0 (cfg : Config) : Bool := idField .e2h0 cfg.idmmfr4 == 0b1110#4

/-- The two clean and invalidate to the Point of Physical Storage instructions, by name (10_state.md R39). -/
inductive PopsInstruction where
  | dcCivaps | dcCigdvaps
deriving DecidableEq, Repr

/-- Those this implementation has: none without PoPS, `DC CIVAPS` with it, and `DC CIGDVAPS` too if FEAT_MTE2 is implemented
(10_state.md R39, R40). -/
def popsInstructions (cfg : Config) (featMTE2 : Bool) : List PopsInstruction :=
  if idField .pops cfg.idmmfr4 = 0b0001#4 then
    if featMTE2 then [.dcCivaps, .dcCigdvaps] else [.dcCivaps]
  else []

end Sys2Proof
end

