-- ==== Sys2Proof/Machine/ConfigChecks.lean ====
section
/-! DEFINITION. The nineteen named checks of a configuration, one for each row of 10_state.md R42's table, in its order. -/

namespace Sys2Proof

/-- The names of the checks (10_state.md R42). -/
inductive WfCheck where
  | res0 | srmask | srmaskV96 | e3dse | rmegdi | e2h0 | e2h0Nv | e2h0Vhe | nvFrac | nvFracNv | fgwte3 | hacdbs
  | asid2 | asid2V95 | eiesb | eiesbIesb | pops | versions | aa64
deriving DecidableEq, Repr

/-- The checks in the table's order (10_state.md R42). -/
def WfCheck.all : List WfCheck :=
  [.res0, .srmask, .srmaskV96, .e3dse, .rmegdi, .e2h0, .e2h0Nv, .e2h0Vhe, .nvFrac, .nvFracNv, .fgwte3, .hacdbs,
   .asid2, .asid2V95, .eiesb, .eiesbIesb, .pops, .versions, .aa64]

/-- The condition of a check (10_state.md R42; 00_scope.md R7 and R2 for the last two). -/
def checkHolds (cfg : Config) : WfCheck → Bool
  | .res0 => res0RangesZero cfg.idmmfr4
  | .srmask => fieldListed .srmask cfg.idmmfr4
  | .srmaskV96 => !cfg.fromArmv9_6 || idField .srmask cfg.idmmfr4 == 0b0001#4
  | .e3dse => fieldListed .e3dse cfg.idmmfr4
  | .rmegdi => fieldListed .rmegdi cfg.idmmfr4
  | .e2h0 => fieldListed .e2h0 cfg.idmmfr4
  | .e2h0Nv => !(idField .e2h0 cfg.idmmfr4 == 0b1110#4) || cfg.featNV
  | .e2h0Vhe => idField .e2h0 cfg.idmmfr4 == 0b0000#4 || cfg.featVHE
  | .nvFrac => fieldListed .nvFrac cfg.idmmfr4
  | .nvFracNv => idField .nvFrac cfg.idmmfr4 == 0b0000#4 || (cfg.featNV && cfg.featNV2)
  | .fgwte3 => fieldListed .fgwte3 cfg.idmmfr4
  | .hacdbs => fieldListed .hacdbs cfg.idmmfr4
  | .asid2 => fieldListed .asid2 cfg.idmmfr4
  | .asid2V95 => !cfg.fromArmv9_5 || idField .asid2 cfg.idmmfr4 == 0b0001#4
  | .eiesb => fieldListed .eiesb cfg.idmmfr4
  | .eiesbIesb => idField .eiesb cfg.idmmfr4 == 0b0000#4 || cfg.featIESB
  | .pops => fieldListed .pops cfg.idmmfr4
  | .versions => !cfg.fromArmv9_6 || cfg.fromArmv9_5
  | .aa64 => cfg.featAA64

/-- The first check, in the table's order, that a configuration fails (95_test_vectors.md section 3). -/
def firstFailedCheck (cfg : Config) : Option WfCheck := WfCheck.all.find? fun c => !checkHolds cfg c

end Sys2Proof
end

