-- ==== Sys2Proof/WellFormed.lean ====
section
/-! DEFINITION. What is well formed: an instruction, a configuration (10_state.md R42) and the place of a program
(70_reset_and_hazards.md R125; 95_test_vectors.md section 6). -/

namespace Sys2Proof

/-- An instruction is well formed when its destination number fits the field Rt, 0 to 31 (30_encoding.md R72). The type of `t`
already says so, so no ill-formed instruction can be written. -/
def Instr.wellFormed : Instr → Bool
  | .mrsIdAa64mmfr4El1 t => decide (t.val ≤ 31)

/-- A configuration is well formed when all nineteen named checks hold (10_state.md R42). One that is not is refused at
configuration time: it is no launch (D4). -/
def Config.wellFormed (cfg : Config) : Bool := WfCheck.all.all fun c => checkHolds cfg c

/-- A program of `n` words may be placed at `base`: a multiple of 4 with `base + 4n` not wrapping
(20_memory.md R63; 95_test_vectors.md section 6). -/
def placementWellFormed (base : Word) (n : Nat) : Bool :=
  decide (base.toNat % 4 = 0) && decide (base.toNat + 4 * n < 2 ^ 64)

/-- The configuration of this implementation: the free values when they pass every check, and the formerly reserved register
otherwise. It is some well-formed configuration, and which one is left open (00_scope.md R5, D2, D4; log entry 4). -/
def Config.implementation : Config :=
  if Config.free.wellFormed then Config.free else Config.formerlyReserved

end Sys2Proof
end

