-- ==== Sys2Proof/Machine/State.lean ====
section
/-! DEFINITION. The state of the machine, the reasons a step can stop, and the state after reset.
The spec's state is the general registers, the pc, PSTATE.EL and the state inputs (00_scope.md section 7; 10_state.md R43 to
R46), and it names one hidden piece, the pending SError (60_exceptions.md R111). The configuration and the program text are fixed
for a launch (00_scope.md section 7; 20_memory.md R67): they stand here because a step is a function of the state alone, and no
step changes them. -/

namespace Sys2Proof.Machine

open Sys2Proof

/-- The program text: the bytes of the instruction words by address, in rising order of address. An address that is not listed
holds no byte (log entry 8). The spec has no data memory (20_memory.md R61, R65). -/
abbrev Memory := List Host.Cell

/-- The canonical form of the text: addresses strictly rising, each an address of 64 bits. -/
abbrev Memory.wf (m : Memory) : Prop :=
  m.Pairwise (fun a b => a.1 < b.1) ∧ ∀ c ∈ m, c.1 < 2 ^ 64

/-- The machine stops with one of these; the first two are the terminal, non-final outcomes of the spec. -/
inductive Fault where
  /-- `Fault.Undefined`: the meaning of the MRS raises it where the source says UNDEFINED (60_exceptions.md R100, R101). It
  records the pc of the instruction and `t` for diagnosis (R103). Safe: the hardware goes on in a handler whose entry the spec
  does not give (R106, D8). -/
  | undefined (pc : Word) (t : Fin 32)
  /-- `Fault.SystemAccessTrap(target, code)`: the meaning of the MRS raises it where the source calls
  `AArch64.SystemAccessTrap` (60_exceptions.md R100, R102, R103). Safe, for the same reason (D9). -/
  | systemAccessTrap (target : ExceptionLevel) (code : Nat) (pc : Word) (t : Fin 32)
  /-- The step raises it when the pc is not a multiple of 4: such a state has no step (20_memory.md R63, D17). Safe. -/
  | misalignedPc (pc : Word)
  /-- The step raises it when one of the four bytes at the pc is not in the program text, as at the end of a run
  (70_reset_and_hazards.md R125). Safe: a chip would fetch whatever lies there (log entry 8). -/
  | noProgramText (pc : Word)
deriving DecidableEq, Repr

/-- The model gives the instruction no meaning. -/
inductive Refusal where
  /-- An instruction of the opcode table without a meaning yet. No arm of `exec` answers it now. -/
  | notModelled (mnemonic : String)
  /-- The step answers it when the decoder refuses the bytes at the pc, with the decoder's reason (30_encoding.md R75,
  95_test_vectors.md P6). Safe: the spec gives such a word no meaning (D14). -/
  | undecoded (why : DecodeRefusal)
deriving DecidableEq, Repr

/-- The state of the machine. -/
structure State where
  /-- The configuration of the launch; no step changes it. -/
  cfg : Config
  /-- `x[0]` to `x[30]` (10_state.md R43). Number 31, XZR, has no storage. -/
  x : Vector Word 31
  /-- The address of the instruction being executed (10_state.md R44). -/
  pc : Word
  /-- `PSTATE.EL` (10_state.md R45). -/
  el : ExceptionLevel
  /-- The state inputs of the step about to be made (00_scope.md R6; 10_state.md R46). -/
  inputs : StepInputs
  /-- The state inputs of the steps after it, in order: the environment's schedule (MODEL's own; log entry 3). -/
  laterInputs : List StepInputs
  /-- How many steps took their inputs from the free values, there being no schedule (MODEL's own; log entry 3). -/
  freeInputsTaken : Nat
  /-- The pending SError exception, hidden state the source names (10_state.md R37, 60_exceptions.md R111). -/
  serrorPending : Bool
  /-- The program text (20_memory.md R67; 70_reset_and_hazards.md R125). -/
  text : Memory
deriving DecidableEq, Repr

/-- The state inputs after reset (DESIGN CHOICE, log entry 1: the spec states none, 70_reset_and_hazards.md R121). -/
def StepInputs.reset : StepInputs where
  el2Enabled := false
  hcrEl2Tge := 0#1
  hcrEl2Tid3 := 0#1
  scrEl3Tid3 := 0#1
  el3SddUndef := false
  el3SddUndefPriority := false

/-- The machine right after reset. The register ID_AA64MMFR4_EL1 is this implementation's constant (70_reset_and_hazards.md R120).
FEAT_AA64, EL3 and the byte order are written out so that they can be read without knowing the rest of the configuration; they are
those of `Config.implementation`. The spec states no reset value for anything else (R121): the values are log entry 1's,
and the Exception level is log entry 2's. No program is loaded (log entry 7). -/
def State.reset : State where
  cfg :=
    { Config.implementation with
      featAA64 := true
      haveEL3 := true
      insnEndianness := .little }
  x := Vector.replicate 31 0#64
  pc := 0#64
  el := .el3
  inputs := StepInputs.reset
  laterInputs := []
  freeInputsTaken := 0
  serrorPending := false
  text := []

end Sys2Proof.Machine
end

