-- ==== Sys2Proof/Machine/Operands.lean ====
section
/-! DEFINITION. The one operand form: the 64-bit general register `<Xt>`, spelled `X[t, 64]` (10_state.md R43,
30_encoding.md R72). -/

namespace Sys2Proof.Machine

open Sys2Proof

/-- `x[t] <- v`: a write of general register `t`; for `t = 31`, XZR, the value is discarded (10_state.md R43). -/
def writeX (t : Fin 32) (v : Word) (s : State) : State :=
  if h : t.val < 31 then { s with x := s.x.set t.val v h } else s

/-- `x[t]`: general register `t`, where number 31 reads as zero (00_scope.md section 5). No rule of the spec reads one: statements
about the machine do. -/
def readX (t : Fin 32) (s : State) : Word :=
  if h : t.val < 31 then s.x[t.val]'h else 0#64

end Sys2Proof.Machine
end

