-- ==== Sys2Proof/Machine/Ops.lean ====
section
/-! DEFINITION. The named operations over the program text and the pc, and the two exceptional outcomes. -/

namespace Sys2Proof.Machine

open Sys2Proof

/-! ### The program text -/

/-- The byte at an address, or none where no byte is listed. -/
def readByte : Memory → Nat → Option Byte
  | [], _ => none
  | (b, v) :: m, a => if a = b then some v else readByte m a

/-- The text with a byte put at an address, in canonical form. -/
def writeByte : Memory → Nat → Byte → Memory
  | [], a, v => [(a, v)]
  | (b, w) :: m, a, v =>
    if a < b then (a, v) :: (b, w) :: m
    else if a = b then (a, v) :: m
    else (b, w) :: writeByte m a v

/-- The `n` bytes from an address on, or none if one of them is not listed. Addresses wrap at 2^64 (10_state.md R44). -/
def readBytes (m : Memory) (a : Word) : Nat → Option (List Byte)
  | 0 => some []
  | n + 1 =>
    match readByte m a.toNat, readBytes m (a + 1#64) n with
    | some b, some bs => some (b :: bs)
    | _, _ => none

/-- The text with bytes put at an address and the addresses after it. -/
def writeBytes (m : Memory) (a : Word) : List Byte → Memory
  | [] => m
  | b :: bs => writeBytes (writeByte m a.toNat b) (a + 1#64) bs

/-- The text with a program's words laid out at `base`, `base + 4`, and so on (70_reset_and_hazards.md R125). -/
def placeWords (e : Endianness) (m : Memory) (base : Word) : List InsnWord → Memory
  | [] => m
  | w :: ws => placeWords e (writeBytes m base (bytesOfWord e w)) (base + 4#64) ws

/-! ### Sequencing -/

/-- `pc <- pc + 4`, modulo 2^64 (10_state.md R44). -/
def advancePc (s : State) : State := { s with pc := s.pc + 4#64 }

/-- The state inputs of the next step come in: the schedule's, and where there is no schedule the free values
(00_scope.md R6, 70_reset_and_hazards.md R123; log entry 3). -/
def takeNextInputs (s : State) : State :=
  match s.laterInputs with
  | i :: rest => { s with inputs := i, laterInputs := rest }
  | [] => { s with inputs := Config.freeStepInputs s.freeInputsTaken, freeInputsTaken := s.freeInputsTaken + 1 }

/-! ### Exceptional outcomes. The spec describes no exception entry and no return: both outcomes are terminal, decided before any
state is written (60_exceptions.md R101, R102, R105 to R107; D8, D9; log entry 9). -/

/-- `raise Undefined()` (60_exceptions.md R101). -/
def raiseUndefined (t : Fin 32) (s : State) : Host.Outcome State Fault Refusal :=
  .fault (.undefined s.pc t)

/-- The code every call of `AArch64.SystemAccessTrap` passes (60_exceptions.md R100). -/
def systemAccessTrapCode : Nat := 0x18

/-- `raise SystemAccessTrap(target, 0x18)` (60_exceptions.md R102, R103). -/
def raiseSystemAccessTrap (target : ExceptionLevel) (t : Fin 32) (s : State) : Host.Outcome State Fault Refusal :=
  .fault (.systemAccessTrap target systemAccessTrapCode s.pc t)

end Sys2Proof.Machine
end

