-- ==== Sys2Proof/Machine/Access.lean ====
section
/-! DEFINITION. The access to ID_AA64MMFR4_EL1, one procedure per branch of the source's pseudocode, in its order
(40_mrs_id_aa64mmfr4_el1.md R80 to R90), and the meaning of the one instruction. -/

namespace Sys2Proof.Machine

open Sys2Proof

/-- What the tests of the access decide (40_mrs_id_aa64mmfr4_el1.md R93). -/
inductive AccessOutcome where
  /-- The read completes. -/
  | value
  /-- UNDEFINED. -/
  | undefined
  /-- `AArch64.SystemAccessTrap(target, 0x18)`. -/
  | trap (target : ExceptionLevel)
deriving DecidableEq, Repr

/-! ### The abbreviations of 40_mrs_id_aa64mmfr4_el1.md section 2 -/

/-- `tid3_el3`: `HaveEL(EL3) && IsFeatureImplemented(FEAT_IDTE3) && SCR_EL3.TID3 == '1'`. -/
def tid3El3 (s : State) : Bool := s.cfg.haveEL3 && s.cfg.featIDTE3 && s.inputs.scrEl3Tid3 == 1#1

/-- `tid3_el2`: `HCR_EL2.TID3 == '1'`. -/
def tid3El2 (s : State) : Bool := s.inputs.hcrEl2Tid3 == 1#1

/-- `tge`: `HCR_EL2.TGE == '1'`. -/
def tge (s : State) : Bool := s.inputs.hcrEl2Tge == 1#1

/-- HCR_EL2.TID3 applies to this register: `fgt || nonzero || impdef_tid3` (40_mrs_id_aa64mmfr4_el1.md R84). -/
def hcrTid3Applies (s : State) : Bool :=
  s.cfg.featFGT || !isZero s.cfg.idmmfr4 || s.cfg.tid3TrapsZeroReg

/-- The condition of the EL2 trap (40_mrs_id_aa64mmfr4_el1.md R84). -/
def el2TrapCondition (s : State) : Bool := s.inputs.el2Enabled && hcrTid3Applies s && tid3El2 s

/-! ### The procedures -/

/-- `UnimplementedIDRegister()` (40_mrs_id_aa64mmfr4_el1.md R81; 90_conflicts.md C2). -/
def unimplementedIdRegister : AccessOutcome := .undefined

/-- Access from EL0 (40_mrs_id_aa64mmfr4_el1.md R82). -/
def accessFromEl0 (s : State) : AccessOutcome :=
  if s.cfg.featIDST then
    if s.inputs.el2Enabled && tge s then .trap .el2 else .trap .el1
  else .undefined

/-- Access from EL1 (40_mrs_id_aa64mmfr4_el1.md R83 to R86). -/
def accessFromEl1 (s : State) : AccessOutcome :=
  if tid3El3 s && s.inputs.el3SddUndefPriority then .undefined
  else if el2TrapCondition s then .trap .el2
  else if tid3El3 s then
    if s.inputs.el3SddUndef then .undefined else .trap .el3
  else .value

/-- Access from EL2 (40_mrs_id_aa64mmfr4_el1.md R87 to R89). -/
def accessFromEl2 (s : State) : AccessOutcome :=
  if tid3El3 s && s.inputs.el3SddUndefPriority then .undefined
  else if tid3El3 s then
    if s.inputs.el3SddUndef then .undefined else .trap .el3
  else .value

/-- Access from EL3 (40_mrs_id_aa64mmfr4_el1.md R90). -/
def accessFromEl3 : AccessOutcome := .value

/-- The tests of the access, FEAT_AA64 first (40_mrs_id_aa64mmfr4_el1.md R80, R81). -/
def accessOutcome (s : State) : AccessOutcome :=
  if !s.cfg.featAA64 then unimplementedIdRegister
  else
    match s.el with
    | .el0 => accessFromEl0 s
    | .el1 => accessFromEl1 s
    | .el2 => accessFromEl2 s
    | .el3 => accessFromEl3

/-- `MRS <Xt>, ID_AA64MMFR4_EL1`: on the completing path `x[t] <- IDMMFR4` and then `pc <- pc + 4`, and nothing else; on an
exceptional path nothing is written (40_mrs_id_aa64mmfr4_el1.md R80, R91). -/
def execMrsIdAa64mmfr4El1 (t : Fin 32) (s : State) : Host.Outcome State Fault Refusal :=
  match accessOutcome s with
  | .value => .next (advancePc (writeX t s.cfg.idmmfr4 s))
  | .undefined => raiseUndefined t s
  | .trap target => raiseSystemAccessTrap target t s

end Sys2Proof.Machine
end

