-- ==== Sys2Proof/Machine/Dispatch.lean ====
section
/-! DEFINITION. The one match over the instructions: one arm per constructor, each one call of a meaning. -/

namespace Sys2Proof.Machine

open Sys2Proof

def exec (i : Instr) (s : State) : Host.Outcome State Fault Refusal :=
  match i with
  | .mrsIdAa64mmfr4El1 t => Sys2Proof.Machine.execMrsIdAa64mmfr4El1 t s

end Sys2Proof.Machine
end

