-- ==== Sys2Proof/Machine/Fetch.lean ====
section
/-! DEFINITION. Fetching: the alignment the pc must have, the four bytes at it, and the instruction they decode to. -/

namespace Sys2Proof.Machine

open Sys2Proof

/-- The pc is a multiple of 4 (20_memory.md R63). -/
def pcAligned (s : State) : Bool := s.pc.extractLsb' 0 2 == 0#2

/-- The four bytes at the pc, if all are in the program text. -/
def fetchBytes (s : State) : Option (List Byte) := readBytes s.text s.pc 4

/-- What fetching answers. -/
inductive Fetched where
  | instruction (i : Instr)
  | misaligned
  | noText
  | undecoded (why : DecodeRefusal)
deriving DecidableEq, Repr

/-- The instruction at the pc: alignment first (20_memory.md R63), then the text (20_memory.md R67), then the decoder
(30_encoding.md R75) with the launch's byte order (20_memory.md R62). -/
def fetch (s : State) : Fetched :=
  if pcAligned s then
    match fetchBytes s with
    | none => .noText
    | some bs =>
      match decodeBytes s.cfg.insnEndianness bs with
      | .ok (i, _) => .instruction i
      | .error r => .undecoded r
  else .misaligned

/-- What a step does after an instruction: where it completed, the next step's state inputs come in. -/
def finishStep (o : Host.Outcome State Fault Refusal) : Host.Outcome State Fault Refusal :=
  match o with
  | .next s => .next (takeNextInputs s)
  | .fault r => .fault r
  | .refused r => .refused r

end Sys2Proof.Machine
end

