-- ==== Sys2Proof/Machine/Step.lean ====
section
/-! DEFINITION. One step of the machine: fetch, decode, execute, and take the next step's inputs. -/

namespace Sys2Proof.Machine

open Sys2Proof

/-- One step. It executes the instruction at the pc; where there is none it stops, with no exception of the architecture
(20_memory.md R63; 30_encoding.md R75; 70_reset_and_hazards.md R125). -/
def step (s : State) : Host.Outcome State Fault Refusal :=
  match fetch s with
  | .instruction i => finishStep (exec i s)
  | .misaligned => .fault (.misalignedPc s.pc)
  | .noText => .fault (.noProgramText s.pc)
  | .undecoded r => .refused (.undecoded r)

/-- The state with the instruction whose bits are `w` placed at the pc, the bits above `nbits` zero, in the launch's byte order.
It stands for loading a program from outside the machine (log entry 7). -/
def State.withFetchWord (s : State) (nbits w : Nat) : State :=
  { s with text := writeBytes s.text s.pc (bytesOfWord s.cfg.insnEndianness (BitVec.ofNat 32 (w % 2 ^ nbits))) }

end Sys2Proof.Machine
end

