-- ==== Sys2Proof/Machine/ErrorSync.lean ====
section
/-! DEFINITION. Where the implicit Error synchronization event stands when an exception is taken, as the EIESB field
describes it (10_state.md R34 to R37, 60_exceptions.md R111). Exception entry itself is not in the spec (60_exceptions.md R106),
so no step of the machine comes here: the file says what the field promises, for the conditions its rows name. -/

namespace Sys2Proof

/-- What a row's condition reads, for one exception that is taken (10_state.md R35, R36). -/
structure ErrorSyncContext where
  /-- The level ELx the exception is taken to. -/
  target : ExceptionLevel
  /-- SCTLR_ELx.IESB of that level. -/
  iesb : Bit
  /-- The level SError exceptions are routed to. -/
  serrorRoutedTo : ExceptionLevel
  /-- FEAT_DoubleFault is implemented. -/
  featDoubleFault : Bool
  /-- FEAT_DoubleFault2 is implemented. -/
  featDoubleFault2 : Bool
  /-- The Effective value of SCR_EL3.NMEA. -/
  scrEl3Nmea : Bit
  /-- The Effective value of SCTLR2_EL1.NMEA. -/
  sctlr2El1Nmea : Bit
  /-- The Effective value of SCTLR2_EL2.NMEA. -/
  sctlr2El2Nmea : Bit
deriving DecidableEq, Repr

/-- The condition of rows 0b1111 and 0b0001, for an exception taken to EL3 (10_state.md R35). -/
def el3RowApplies (c : ErrorSyncContext) : Bool :=
  c.target == .el3 && c.serrorRoutedTo == .el3 && (!c.featDoubleFault || c.scrEl3Nmea == 1#1)

/-- The condition row 0b0010 adds for an exception taken to EL1 (10_state.md R35). -/
def el1RowApplies (c : ErrorSyncContext) : Bool :=
  c.target == .el1 && c.serrorRoutedTo == .el1 && (!c.featDoubleFault2 || c.sctlr2El1Nmea == 1#1)

/-- The condition row 0b0010 adds for an exception taken to EL2 (10_state.md R35). -/
def el2RowApplies (c : ErrorSyncContext) : Bool :=
  c.target == .el2 && c.serrorRoutedTo == .el2 && (!c.featDoubleFault2 || c.sctlr2El2Nmea == 1#1)

/-- What the field says of one exception. -/
inductive ErrorSyncPromise where
  /-- The event is inserted before the exception is taken. -/
  | before
  /-- The event might be inserted after the exception is taken. -/
  | mightBeAfter
  /-- The field does not describe this case. -/
  | notDescribed
deriving DecidableEq, Repr

/-- What an EIESB value promises for one exception (10_state.md R35, R36): nothing when SCTLR_ELx.IESB is 0, nothing outside the
condition of the value's row, nothing for a reserved value. -/
def errorSyncPromise (eiesb : BitVec 4) (c : ErrorSyncContext) : ErrorSyncPromise :=
  if c.iesb = 1#1 then
    match eiesbMeaning eiesb with
    | some .mightBeAfterToEl3 => if el3RowApplies c then .mightBeAfter else .notDescribed
    | some .beforeToEl3 => if el3RowApplies c then .before else .notDescribed
    | some .beforeToEl3El1El2 => if el3RowApplies c || el1RowApplies c || el2RowApplies c then .before else .notDescribed
    | some .notDescribed => .notDescribed
    | none => .notDescribed
  else .notDescribed

/-- Where the event stands on the given occasion: where the field promises it, else a free value (10_state.md R36: the placement
stays open in every case a row's condition does not cover; 93_implementation_defined.md I22 to I24). -/
def errorSyncPlacement (eiesb : BitVec 4) (c : ErrorSyncContext) (occasion : Nat) : ErrorSyncPlacement :=
  match errorSyncPromise eiesb c with
  | .before => .before
  | .mightBeAfter => Config.freeErrorSyncPlacement occasion
  | .notDescribed => Config.freeErrorSyncPlacement occasion

/-- Which exception is taken. -/
inductive TakenException where
  | original | serror
deriving DecidableEq, Repr

/-- What "before" means (10_state.md R37): an SError exception the event makes pending, if SError exceptions are not masked and not
disabled, "is taken in place of the original exception". -/
def exceptionTaken (p : ErrorSyncPlacement) (eventPendsSError masked disabled : Bool) : TakenException :=
  match p with
  | .before => if eventPendsSError && !masked && !disabled then .serror else .original
  | .after => .original

end Sys2Proof
end

