-- ==== Sys2Proof/Machine/OutcomeTable.lean ====
section
/-! DEFINITION. The access as one total function of its Boolean inputs (40_mrs_id_aa64mmfr4_el1.md R93), written a second time and
apart from the procedures of Machine/Access.lean, which are what the machine runs; that the two agree is a statement. -/

namespace Sys2Proof.Machine

open Sys2Proof

/-- The inputs of the outcome (40_mrs_id_aa64mmfr4_el1.md section 2 and R93). -/
structure OutcomeInputs where
  aa64 : Bool
  idst : Bool
  fgt : Bool
  el2en : Bool
  tge : Bool
  tid3El2 : Bool
  tid3El3 : Bool
  sddPrio : Bool
  sdd : Bool
  nonzero : Bool
  impdefTid3 : Bool
deriving DecidableEq, Repr

/-- The inputs as a state gives them (40_mrs_id_aa64mmfr4_el1.md section 2). -/
def outcomeInputs (s : State) : OutcomeInputs where
  aa64 := s.cfg.featAA64
  idst := s.cfg.featIDST
  fgt := s.cfg.featFGT
  el2en := s.inputs.el2Enabled
  tge := s.inputs.hcrEl2Tge == 1#1
  tid3El2 := s.inputs.hcrEl2Tid3 == 1#1
  tid3El3 := s.cfg.haveEL3 && s.cfg.featIDTE3 && s.inputs.scrEl3Tid3 == 1#1
  sddPrio := s.inputs.el3SddUndefPriority
  sdd := s.inputs.el3SddUndef
  nonzero := !isZero s.cfg.idmmfr4
  impdefTid3 := s.cfg.tid3TrapsZeroReg

/-- `outcome(cfg, st)` (40_mrs_id_aa64mmfr4_el1.md R93). -/
def outcomeTable (el : ExceptionLevel) (b : OutcomeInputs) : AccessOutcome :=
  if !b.aa64 then .undefined
  else
    match el with
    | .el0 =>
      if !b.idst then .undefined
      else if b.el2en && b.tge then .trap .el2
      else .trap .el1
    | .el1 =>
      if b.tid3El3 && b.sddPrio then .undefined
      else if b.el2en && (b.fgt || b.nonzero || b.impdefTid3) && b.tid3El2 then .trap .el2
      else if b.tid3El3 then (if b.sdd then .undefined else .trap .el3)
      else .value
    | .el2 =>
      if b.tid3El3 && b.sddPrio then .undefined
      else if b.tid3El3 then (if b.sdd then .undefined else .trap .el3)
      else .value
    | .el3 => .value

end Sys2Proof.Machine
end

