-- ==== Sys2Proof/Machine/Reporting.lean ====
section
/-! DEFINITION. How the instruction is written and reported: its assembler spellings (30_encoding.md R76) and, PRESUMED, what the
family's exception syndrome says of it (60_exceptions.md R101, R102; 93_implementation_defined.md G4, G5; log entry 10). No step
uses this file: a fault records the target level and the code alone (60_exceptions.md R103, D9). -/

namespace Sys2Proof.Machine

open Sys2Proof

/-- The name of the 64-bit general register `t`; number 31 is spelled XZR (30_encoding.md R76). -/
def xName (t : Fin 32) : String := if t.val = 31 then "XZR" else "X" ++ toString t.val

/-- The assembler spelling `MRS <Xt>, ID_AA64MMFR4_EL1` (30_encoding.md R76). -/
def assembly : Instr → String
  | .mrsIdAa64mmfr4El1 t => "MRS " ++ xName t ++ ", ID_AA64MMFR4_EL1"

/-- The generic register name built from a key, `S<op0>_<op1>_C<CRn>_C<CRm>_<op2>`. PRESUMED (30_encoding.md R76). -/
def genericName (k : SysRegKey) : String :=
  "S" ++ toString k.op0.toNat ++ "_" ++ toString k.op1.toNat ++ "_C" ++ toString k.crn.toNat
    ++ "_C" ++ toString k.crm.toNat ++ "_" ++ toString k.op2.toNat

/-- The spelling for assemblers that do not know the register's name. PRESUMED (30_encoding.md R76). -/
def genericAssembly : Instr → String
  | .mrsIdAa64mmfr4El1 t => "MRS " ++ xName t ++ ", " ++ genericName idMmfr4Key

/-- The syndrome of a trapped read with destination `t`: class 0x18 in [31:26], bit 25 set, then op0, op2, op1, CRn, Rt, CRm and
a direction bit that is 1 for a read. PRESUMED (60_exceptions.md R102). -/
def trapSyndrome (t : Fin 32) : BitVec 32 :=
  (0x18#6) ++ (1#1) ++ (0#3) ++ idMmfr4Key.op0 ++ idMmfr4Key.op2 ++ idMmfr4Key.op1 ++ idMmfr4Key.crn ++ (BitVec.ofFin t : BitVec 5)
    ++ idMmfr4Key.crm ++ (1#1)

/-- The level an UNDEFINED instruction's exception is taken to. PRESUMED (60_exceptions.md R101). -/
def undefinedTarget (s : State) : ExceptionLevel :=
  match s.el with
  | .el0 => if s.inputs.el2Enabled && tge s then .el2 else .el1
  | .el1 => .el1
  | .el2 => .el2
  | .el3 => .el3

end Sys2Proof.Machine
end

