-- ==== Sys2Proof/Safety.lean ====
section
/-! DEFINITION. The terms claims are made in: a launch, how an instruction can end, and the run of a program.
A claim about a program of several instructions carries one premise the model cannot express, "no asynchronous exception is taken
during the run" (60_exceptions.md R110, D27; log entry 11). -/

namespace Sys2Proof.Machine

open Sys2Proof

/-! ### Launch -/

/-- The premises of a launch that a step keeps: the configuration is well formed (10_state.md R42), the pc is a multiple of 4
(20_memory.md R63), EL3 is current only where EL3 is implemented (40_mrs_id_aa64mmfr4_el1.md R92 case 8, D11), and the program text
is in canonical form. -/
structure LaunchInvariant (s : State) : Prop where
  configWellFormed : s.cfg.wellFormed = true
  pcMultipleOf4 : s.pc.toNat % 4 = 0
  el3Implemented : s.el = .el3 → s.cfg.haveEL3 = true
  textCanonical : s.text.wf

/-- A state with a program of words placed at `base` and the pc at its first word (70_reset_and_hazards.md R125). -/
def launch (s : State) (base : Word) (program : List InsnWord) : State :=
  { s with text := placeWords s.cfg.insnEndianness [] base program, pc := base }

/-! ### How an instruction ends (40_mrs_id_aa64mmfr4_el1.md R93, 60_exceptions.md R100) -/

/-- The instruction completes: there is a next state. -/
def Completes (i : Instr) (s : State) : Prop := ∃ s', exec i s = .next s'

/-- The instruction ends with the outcome UNDEFINED. -/
def EndsUndefined (i : Instr) (s : State) : Prop := ∃ pc t, exec i s = .fault (.undefined pc t)

/-- The instruction ends with `SystemAccessTrap(target, code)`. -/
def EndsInTrap (i : Instr) (s : State) (target : ExceptionLevel) (code : Nat) : Prop :=
  ∃ pc t, exec i s = .fault (.systemAccessTrap target code pc t)

/-! ### Runs (70_reset_and_hazards.md R125, D29) -/

/-- How a run of a program ended, or that it has not. -/
inductive RunEnd where
  /-- `pc = base + 4n` with no fault recorded: the state is final. -/
  | final (s : State)
  /-- A fault ended the run; the state is the one the fault was raised in, and it is not final. -/
  | faulted (r : Fault) (s : State)
  /-- The refusal mark is set; the run says nothing (95_test_vectors.md P6). -/
  | refused (r : Refusal) (s : State)
  /-- The steps allowed were used up before the end. -/
  | running (s : State)
deriving DecidableEq, Repr

/-- A run of an `n`-word program at `base`, of at most `fuel` steps: it ends at `pc = base + 4n`, or with the first fault or
refusal. This does not say that a chip stops there (70_reset_and_hazards.md R125). -/
def runProgram (base : Word) (n : Nat) : Nat → State → RunEnd
  | 0, s => if s.pc = base + BitVec.ofNat 64 (4 * n) then .final s else .running s
  | fuel + 1, s =>
    if s.pc = base + BitVec.ofNat 64 (4 * n) then .final s
    else
      match step s with
      | .next s' => runProgram base n fuel s'
      | .fault r => .faulted r s
      | .refused r => .refused r s

end Sys2Proof.Machine
end

