-- ==== Sys2Proof/Certificates/Slice0/Obligations.lean ====
section
/-! DEFINITION. The statements for the provers. "The MRS" is the one instruction, `MRS <Xt>, ID_AA64MMFR4_EL1`.
That UNDEFINED and the trap stop the machine, with no handler entered, is the spec's decision D8 and D9 and log entry 9; that the
pc advances by 4 is its decision D7; that number 31 is XZR is its decision D5. Statements that rest on one of these are derived. -/

open Sys2Proof Sys2Proof.Machine

/-! ### The access, level by level -/

/-- 40_mrs_id_aa64mmfr4_el1.md R90: at EL3 the read always completes and `x[t]` holds the register, whatever every trap bit,
feature and debug condition is. (FEAT_AA64 is the launch premise, 00_scope.md R2.) -/
def Obligations.El3ReadAlwaysReturnsTheRegister : Prop :=
  ∀ (t : Fin 32) (s : State), s.cfg.featAA64 = true → s.el = .el3 →
    ∃ s', exec (.mrsIdAa64mmfr4El1 t) s = .next s' ∧ ∀ h : t.val < 31, s'.x[t.val] = s.cfg.idmmfr4

/-- 40_mrs_id_aa64mmfr4_el1.md R82: an EL0 read never returns the value. With FEAT_IDST it traps with code 0x18, to EL2 when EL2
is enabled and HCR_EL2.TGE is 1, otherwise to EL1; without FEAT_IDST it is UNDEFINED. -/
def Obligations.El0ReadTrapsOrIsUndefined : Prop :=
  ∀ (t : Fin 32) (s : State), s.cfg.featAA64 = true → s.el = .el0 →
    ¬ Completes (.mrsIdAa64mmfr4El1 t) s ∧
    (s.cfg.featIDST = true → s.inputs.el2Enabled = true → s.inputs.hcrEl2Tge = 1#1 →
      EndsInTrap (.mrsIdAa64mmfr4El1 t) s .el2 0x18) ∧
    (s.cfg.featIDST = true → (s.inputs.el2Enabled = false ∨ s.inputs.hcrEl2Tge = 0#1) →
      EndsInTrap (.mrsIdAa64mmfr4El1 t) s .el1 0x18) ∧
    (s.cfg.featIDST = false → EndsUndefined (.mrsIdAa64mmfr4El1 t) s)

/-- 40_mrs_id_aa64mmfr4_el1.md R83 to R86: the four tests of an EL1 read, in their order. The EL2 trap of R84 comes before the
EL3 trap of R85, and the UNDEFINED of R83 before both. -/
def Obligations.El1ReadFollowsItsFourTests : Prop :=
  ∀ (t : Fin 32) (s : State), s.cfg.featAA64 = true → s.el = .el1 →
    if (s.cfg.haveEL3 = true ∧ s.cfg.featIDTE3 = true ∧ s.inputs.scrEl3Tid3 = 1#1) ∧ s.inputs.el3SddUndefPriority = true then
      EndsUndefined (.mrsIdAa64mmfr4El1 t) s
    else if s.inputs.el2Enabled = true ∧
        (s.cfg.featFGT = true ∨ s.cfg.idmmfr4 ≠ 0#64 ∨ s.cfg.tid3TrapsZeroReg = true) ∧ s.inputs.hcrEl2Tid3 = 1#1 then
      EndsInTrap (.mrsIdAa64mmfr4El1 t) s .el2 0x18
    else if s.cfg.haveEL3 = true ∧ s.cfg.featIDTE3 = true ∧ s.inputs.scrEl3Tid3 = 1#1 then
      if s.inputs.el3SddUndef = true then EndsUndefined (.mrsIdAa64mmfr4El1 t) s
      else EndsInTrap (.mrsIdAa64mmfr4El1 t) s .el3 0x18
    else
      ∃ s', exec (.mrsIdAa64mmfr4El1 t) s = .next s' ∧ ∀ h : t.val < 31, s'.x[t.val] = s.cfg.idmmfr4

/-- 40_mrs_id_aa64mmfr4_el1.md R87 to R89: the tests of an EL2 read, in their order. HCR_EL2.TID3 and HCR_EL2.TGE are not
consulted. -/
def Obligations.El2ReadFollowsItsThreeTests : Prop :=
  ∀ (t : Fin 32) (s : State), s.cfg.featAA64 = true → s.el = .el2 →
    if (s.cfg.haveEL3 = true ∧ s.cfg.featIDTE3 = true ∧ s.inputs.scrEl3Tid3 = 1#1) ∧ s.inputs.el3SddUndefPriority = true then
      EndsUndefined (.mrsIdAa64mmfr4El1 t) s
    else if s.cfg.haveEL3 = true ∧ s.cfg.featIDTE3 = true ∧ s.inputs.scrEl3Tid3 = 1#1 then
      if s.inputs.el3SddUndef = true then EndsUndefined (.mrsIdAa64mmfr4El1 t) s
      else EndsInTrap (.mrsIdAa64mmfr4El1 t) s .el3 0x18
    else
      ∃ s', exec (.mrsIdAa64mmfr4El1 t) s = .next s' ∧ ∀ h : t.val < 31, s'.x[t.val] = s.cfg.idmmfr4

/-- 40_mrs_id_aa64mmfr4_el1.md R81, 90_conflicts.md C2: without FEAT_AA64 the access is UNDEFINED at every level. The spec's own
resolution of a conflict, and outside the launch premise. -/
def Obligations.WithoutAa64EveryReadIsUndefined : Prop :=
  ∀ (t : Fin 32) (s : State), s.cfg.featAA64 = false → EndsUndefined (.mrsIdAa64mmfr4El1 t) s

/-- The whole of a completing read, for every level, every destination and XZR too (40_mrs_id_aa64mmfr4_el1.md R86, R89, R90, R91;
10_state.md R43, R44): under these conditions on the configuration and the state inputs the MRS answers this next state, which
differs from the old one in `x[t]` and the pc alone. -/
def Obligations.CompletingReadAnswersThisState : Prop :=
  ∀ (t : Fin 32) (s : State), s.cfg.featAA64 = true →
    (s.el = .el3 ∨
      ((s.el = .el1 ∨ s.el = .el2) ∧
        (s.cfg.haveEL3 = false ∨ s.cfg.featIDTE3 = false ∨ s.inputs.scrEl3Tid3 = 0#1) ∧
        (s.el = .el1 → s.inputs.el2Enabled = false ∨ s.inputs.hcrEl2Tid3 = 0#1 ∨
          (s.cfg.featFGT = false ∧ s.cfg.idmmfr4 = 0#64 ∧ s.cfg.tid3TrapsZeroReg = false)))) →
    exec (.mrsIdAa64mmfr4El1 t) s =
      .next { s with
        x := if h : t.val < 31 then s.x.set t.val s.cfg.idmmfr4 h else s.x
        pc := s.pc + 4#64 }

/-- The conditions of the statement before are necessary: where the MRS completes, they hold
(40_mrs_id_aa64mmfr4_el1.md R93). -/
def Obligations.ReadCompletesOnlyThere : Prop :=
  ∀ (t : Fin 32) (s : State), Completes (.mrsIdAa64mmfr4El1 t) s →
    s.cfg.featAA64 = true ∧
    (s.el = .el3 ∨
      ((s.el = .el1 ∨ s.el = .el2) ∧
        (s.cfg.haveEL3 = false ∨ s.cfg.featIDTE3 = false ∨ s.inputs.scrEl3Tid3 = 0#1) ∧
        (s.el = .el1 → s.inputs.el2Enabled = false ∨ s.inputs.hcrEl2Tid3 = 0#1 ∨
          (s.cfg.featFGT = false ∧ s.cfg.idmmfr4 = 0#64 ∧ s.cfg.tid3TrapsZeroReg = false))))

/-- The procedures the machine runs (40_mrs_id_aa64mmfr4_el1.md R80 to R90) agree with the one total function of R93, and the fault
records what 60_exceptions.md R103 says it records. -/
def Obligations.ReadIsTheTotalOutcomeFunction : Prop :=
  ∀ (t : Fin 32) (s : State),
    exec (.mrsIdAa64mmfr4El1 t) s =
      match outcomeTable s.el (outcomeInputs s) with
      | .value =>
        .next { s with
          x := if h : t.val < 31 then s.x.set t.val s.cfg.idmmfr4 h else s.x
          pc := s.pc + 4#64 }
      | .undefined => .fault (.undefined s.pc t)
      | .trap target => .fault (.systemAccessTrap target 0x18 s.pc t)

/-- Which outcomes each level has, and no others (40_mrs_id_aa64mmfr4_el1.md R93, 60_exceptions.md R100): EL0 Undefined and the
traps to EL1 and EL2; EL1 all but the trap to EL1; EL2 Undefined, the trap to EL3 and the value; EL3 the value. Each of them does
arise. -/
def Obligations.OutcomesOfEachLevel : Prop :=
  (∀ (t : Fin 32) (s : State), s.cfg.featAA64 = true →
    match s.el with
    | .el0 => EndsUndefined (.mrsIdAa64mmfr4El1 t) s ∨ EndsInTrap (.mrsIdAa64mmfr4El1 t) s .el1 0x18 ∨
        EndsInTrap (.mrsIdAa64mmfr4El1 t) s .el2 0x18
    | .el1 => EndsUndefined (.mrsIdAa64mmfr4El1 t) s ∨ EndsInTrap (.mrsIdAa64mmfr4El1 t) s .el2 0x18 ∨
        EndsInTrap (.mrsIdAa64mmfr4El1 t) s .el3 0x18 ∨ Completes (.mrsIdAa64mmfr4El1 t) s
    | .el2 => EndsUndefined (.mrsIdAa64mmfr4El1 t) s ∨ EndsInTrap (.mrsIdAa64mmfr4El1 t) s .el3 0x18 ∨
        Completes (.mrsIdAa64mmfr4El1 t) s
    | .el3 => Completes (.mrsIdAa64mmfr4El1 t) s) ∧
  (∀ (t : Fin 32) (el : ExceptionLevel), el ≠ .el3 →
    ∃ s : State, s.cfg.featAA64 = true ∧ s.el = el ∧ EndsUndefined (.mrsIdAa64mmfr4El1 t) s) ∧
  (∀ (t : Fin 32) (el target : ExceptionLevel),
    (el = .el0 ∧ target = .el1) ∨ (el = .el0 ∧ target = .el2) ∨ (el = .el1 ∧ target = .el2) ∨
      (el = .el1 ∧ target = .el3) ∨ (el = .el2 ∧ target = .el3) →
    ∃ s : State, s.cfg.featAA64 = true ∧ s.el = el ∧ EndsInTrap (.mrsIdAa64mmfr4El1 t) s target 0x18) ∧
  (∀ (t : Fin 32) (el : ExceptionLevel), el ≠ .el0 →
    ∃ s : State, s.cfg.featAA64 = true ∧ s.el = el ∧ Completes (.mrsIdAa64mmfr4El1 t) s)

/-- 60_exceptions.md R108, by derivation: no trap is taken to EL0, and none to a level lower than the one that executed the
read. (The order of the levels is general knowledge, 93_implementation_defined.md G9.) -/
def Obligations.TrapsNeverGoToALowerLevel : Prop :=
  ∀ (t u : Fin 32) (s : State) (target : ExceptionLevel) (code : Nat) (pc : Word),
    exec (.mrsIdAa64mmfr4El1 t) s = .fault (.systemAccessTrap target code pc u) →
      target ≠ .el0 ∧ s.el.rank ≤ target.rank ∧ code = 0x18

/-- 60_exceptions.md R103 and R105: an exceptional outcome records the pc of the instruction and `t`, and the MRS answers no other
fault and no refusal. (What the fault carries beside the target and the code is the spec's decision D9.) -/
def Obligations.ExceptionalOutcomeRecordsPcAndDestination : Prop :=
  ∀ (t : Fin 32) (s : State),
    (∀ f, exec (.mrsIdAa64mmfr4El1 t) s = .fault f →
      f = .undefined s.pc t ∨ ∃ target, f = .systemAccessTrap target 0x18 s.pc t) ∧
    (∀ r, exec (.mrsIdAa64mmfr4El1 t) s ≠ .refused r)

/-- The frame of the MRS (40_mrs_id_aa64mmfr4_el1.md R91, 10_state.md R45, 20_memory.md R61): where it completes, every general
register but `x[t]` is unchanged, as are PSTATE.EL, the control bits and the other state inputs, the schedule of inputs, the pending
SError, the configuration with the register itself, and every byte of memory. The pc may change. -/
def Obligations.CompletingReadChangesOnlyItsDestination : Prop :=
  ∀ (t : Fin 32) (s s' : State), exec (.mrsIdAa64mmfr4El1 t) s = .next s' →
    (∀ u : Fin 32, u ≠ t → readX u s' = readX u s) ∧ s'.el = s.el ∧ s'.inputs = s.inputs ∧
    s'.laterInputs = s.laterInputs ∧ s'.freeInputsTaken = s.freeInputsTaken ∧ s'.serrorPending = s.serrorPending ∧
    s'.cfg = s.cfg ∧ ∀ a : Nat, readByte s'.text a = readByte s.text a

/-- 10_state.md R43 and 40_mrs_id_aa64mmfr4_el1.md R92 case 1 (the spec's decision D5): with `t = 31` the value is discarded, and the
checks still run, so that the read completes, is UNDEFINED or traps exactly where it does with any other destination. -/
def Obligations.XzrReadDiscardsTheValueButIsStillChecked : Prop :=
  ∀ s : State,
    (∀ s', exec (.mrsIdAa64mmfr4El1 31) s = .next s' → s' = { s with pc := s.pc + 4#64 }) ∧
    ∀ t : Fin 32,
      (Completes (.mrsIdAa64mmfr4El1 31) s ↔ Completes (.mrsIdAa64mmfr4El1 t) s) ∧
      (EndsUndefined (.mrsIdAa64mmfr4El1 31) s ↔ EndsUndefined (.mrsIdAa64mmfr4El1 t) s) ∧
      ∀ target, EndsInTrap (.mrsIdAa64mmfr4El1 31) s target 0x18 ↔ EndsInTrap (.mrsIdAa64mmfr4El1 t) s target 0x18

/-- 40_mrs_id_aa64mmfr4_el1.md R93: the outcome depends on the level, the state inputs and the configuration, and on the register only
through whether it is zero; not on `t`, on a general register, on the pc, on memory or on any earlier step. -/
def Obligations.OutcomeIgnoresRegistersPcAndMemory : Prop :=
  ∀ (t u : Fin 32) (s r : State),
    s.el = r.el → s.inputs = r.inputs →
    s.cfg.featAA64 = r.cfg.featAA64 → s.cfg.featIDST = r.cfg.featIDST → s.cfg.featIDTE3 = r.cfg.featIDTE3 →
    s.cfg.featFGT = r.cfg.featFGT → s.cfg.haveEL3 = r.cfg.haveEL3 → s.cfg.tid3TrapsZeroReg = r.cfg.tid3TrapsZeroReg →
    (s.cfg.idmmfr4 = 0#64 ↔ r.cfg.idmmfr4 = 0#64) →
    (Completes (.mrsIdAa64mmfr4El1 t) s ↔ Completes (.mrsIdAa64mmfr4El1 u) r) ∧
    (EndsUndefined (.mrsIdAa64mmfr4El1 t) s ↔ EndsUndefined (.mrsIdAa64mmfr4El1 u) r) ∧
    ∀ target, EndsInTrap (.mrsIdAa64mmfr4El1 t) s target 0x18 ↔ EndsInTrap (.mrsIdAa64mmfr4El1 u) r target 0x18

/-- 40_mrs_id_aa64mmfr4_el1.md R92 case 6, "the one place where the order of the tests changes the result": at EL1 with both traps
set the read traps to EL2, whatever `EL3SDDUndef()` is, and is UNDEFINED instead when `EL3SDDUndefPriority()` holds. -/
def Obligations.El1TrapToEl2OutranksTrapToEl3 : Prop :=
  ∀ (t : Fin 32) (s : State), s.cfg.featAA64 = true → s.el = .el1 →
    s.cfg.haveEL3 = true → s.cfg.featIDTE3 = true → s.inputs.scrEl3Tid3 = 1#1 →
    s.inputs.el2Enabled = true → s.cfg.idmmfr4 ≠ 0#64 → s.inputs.hcrEl2Tid3 = 1#1 →
    (s.inputs.el3SddUndefPriority = false → EndsInTrap (.mrsIdAa64mmfr4El1 t) s .el2 0x18) ∧
    (s.inputs.el3SddUndefPriority = true → EndsUndefined (.mrsIdAa64mmfr4El1 t) s)

/-- 20_memory.md R64 and 40_mrs_id_aa64mmfr4_el1.md R93, by derivation: the read is idempotent. After a read that completes, a second
read made with the state inputs unchanged, and with no asynchronous exception taken between the two (log entry 11), completes too, and
both destinations hold the register. That it completes rests on the unchanged inputs: a step takes new ones (log entry 3), with which
the second read may trap, as in 95_test_vectors.md P5. -/
def Obligations.SecondReadReturnsTheSameValue : Prop :=
  ∀ (t u : Fin 32) (s s1 : State), exec (.mrsIdAa64mmfr4El1 t) s = .next s1 →
    ∃ s2, exec (.mrsIdAa64mmfr4El1 u) s1 = .next s2 ∧
      (t.val < 31 → readX t s2 = s.cfg.idmmfr4) ∧ (u.val < 31 → readX u s2 = s.cfg.idmmfr4)

/-! ### The step -/

/-- When the bytes at an aligned pc decode to an instruction, the step is that instruction's meaning; where it completes, the next
step's state inputs come in, from the schedule or, where there is none, as free values (log entry 3); where it ends in a fault or a
refusal, so does the step. -/
def Obligations.StepRunsTheDecodedInstruction : Prop :=
  ∀ (s : State) (i : Instr) (bs rest : List Byte),
    s.pc.toNat % 4 = 0 → readBytes s.text s.pc 4 = some bs → decodeBytes s.cfg.insnEndianness bs = .ok (i, rest) →
    i.wellFormed = true →
    step s =
      match exec i s with
      | .next s' =>
        .next
          (match s'.laterInputs with
          | j :: later => { s' with inputs := j, laterInputs := later }
          | [] =>
            { s' with
              inputs := Config.freeStepInputs s'.freeInputsTaken
              freeInputsTaken := s'.freeInputsTaken + 1 })
      | .fault f => .fault f
      | .refused r => .refused r

/-- The interface's placing of a word does what it is for: an instruction's word, placed at an aligned pc in the launch's byte order,
is what the next step runs, whatever the text held before. -/
def Obligations.StepRunsThePlacedInstruction : Prop :=
  ∀ (s : State) (i : Instr), s.pc.toNat % 4 = 0 →
    step (s.withFetchWord 32 (encode i).toNat) =
      match exec i (s.withFetchWord 32 (encode i).toNat) with
      | .next s' => .next (takeNextInputs s')
      | .fault f => .fault f
      | .refused r => .refused r

/-- 20_memory.md R63 (the spec's decision D17): a pc that is not a multiple of 4 has no step. -/
def Obligations.MisalignedPcHasNoStep : Prop :=
  ∀ s : State, s.pc.toNat % 4 ≠ 0 → step s = .fault (.misalignedPc s.pc)

/-- The model's choice (log entry 8): where one of the four bytes at the pc is not in the program text, the step stops with a fault
of its own, no exception of the architecture. -/
def Obligations.StepOutsideTheProgramTextStops : Prop :=
  ∀ (s : State) (k : Nat), s.pc.toNat % 4 = 0 → k < 4 → readByte s.text (s.pc.toNat + k) = none →
    step s = .fault (.noProgramText s.pc)

/-- 30_encoding.md R75 (the spec's decision D14): a word that does not match the opcode table's row is refused by the decoder, for a
reason with a name; it is not given the meaning UNDEFINED. -/
def Obligations.OtherWordsAreRefusedNotUndefined : Prop :=
  ∀ (s : State) (w : InsnWord), s.pc.toNat % 4 = 0 →
    readBytes s.text s.pc 4 = some (bytesOfWord s.cfg.insnEndianness w) → w &&& 0xFFFFFFE0#32 ≠ 0xD5380780#32 →
    ∃ why, decodeWord w = .error why ∧ step s = .refused (.undecoded why)

/-- 40_mrs_id_aa64mmfr4_el1.md R82, 60_exceptions.md R109: an EL0 read never returns the value. That no step of the machine at EL0 answers
a next state rests besides on decisions: UNDEFINED and the trap end the run with no handler entered (the spec's D8 and D9, log entry
9), every other word is refused (D14), a misaligned pc has no step (D17, log entry 13), and an address without program text stops
(log entry 8). -/
def Obligations.NoStepCompletesAtEl0 : Prop :=
  ∀ s s' : State, s.el = .el0 → step s ≠ .next s'

/-! ### Encoding -/

/-- Decoding the bytes of an instruction gives the instruction back, with every destination, in either byte order, whatever bytes
follow (30_encoding.md R71, 20_memory.md R62; the field positions are general knowledge, log entry 6). -/
def Obligations.DecodeOfEncodeIsTheInstruction : Prop :=
  ∀ (e : Endianness) (i : Instr) (rest : List Byte), i.wellFormed = true →
    decodeBytes e (encodeBytes e i ++ rest) = .ok (i, rest)

/-- Each instruction has one word: a word that decodes to an instruction is that instruction's encoding (30_encoding.md R77). -/
def Obligations.DecodedWordIsTheEncoding : Prop :=
  ∀ (w : InsnWord) (i : Instr), decodeWord w = .ok i → encode i = w

/-- 30_encoding.md R71 (general knowledge, log entry 6): a word decodes to the MRS with destination `t` exactly when
`word & 0xFFFFFFE0 == 0xD5380780` and `t = word[4:0]`. -/
def Obligations.WordDecodesExactlyOnMatchAndMask : Prop :=
  ∀ (w : InsnWord) (t : Fin 32),
    decodeWord w = .ok (.mrsIdAa64mmfr4El1 t) ↔ w &&& 0xFFFFFFE0#32 = 0xD5380780#32 ∧ t.val = w.toNat % 32

/-- 30_encoding.md R75 (the spec's decision D14): the write form with the same key, for every Rt, is refused under its own name. -/
def Obligations.WriteFormIsRefused : Prop :=
  ∀ t : Fin 32, decodeWord (0xD5180780#32 + BitVec.ofNat 32 t.val) = .error (.writeForm t)

/-- Words of 95_test_vectors.md section 4 decode to the instruction they stand for. -/
def Obligations.SampleWordsDecode : Prop :=
  decodeTableWord 32 0xD5380780 = some (.mrsIdAa64mmfr4El1 0) ∧
  decodeTableWord 32 0xD5380785 = some (.mrsIdAa64mmfr4El1 5) ∧
  decodeTableWord 32 0xD538079E = some (.mrsIdAa64mmfr4El1 30) ∧
  decodeTableWord 32 0xD538079F = some (.mrsIdAa64mmfr4El1 31) ∧
  decodeTableWord 32 0xD5380760 = none

/-! ### The register and the configuration -/

/-- 10_state.md R11: the thirteen ranges tile bits 63 to 0 with no gap and no overlap, and each field lies in the range the table
gives it. -/
def Obligations.RegisterRangesTileAllBits : Prop :=
  idLayout.length = 13 ∧
  (∀ i, i < 64 → (idLayout.filter fun r => decide (r.lo ≤ i ∧ i ≤ r.hi)).length = 1) ∧
  ∀ f : IdField, (⟨f.lo + 3, f.lo, some f⟩ : RegRange) ∈ idLayout

/-- 10_state.md R11, R12, R16, R19: slicing the value made of ten fields gives the fields back, and the reserved ranges are
zero; and a value whose reserved ranges are zero is made of its fields. -/
def Obligations.RegisterValueIsItsTenFields : Prop :=
  (∀ f : IdFields, idFieldsOfValue (idValueOfFields f) = f ∧ res0RangesZero (idValueOfFields f) = true) ∧
  ∀ v : Word, res0RangesZero v = true → idValueOfFields (idFieldsOfValue v) = v

/-- 10_state.md R42, by derivation: exactly 4608 values of 64 bits pass the value checks, listed without repetition. -/
def Obligations.ExactlyThisManyValuesPassTheChecks : Prop :=
  ∃ values : List Word, values.Nodup ∧ values.length = 4608 ∧ ∀ v, v ∈ values ↔ passesValueChecks v = true

/-- 10_state.md R42, 00_scope.md R7 and R2: a configuration is well formed exactly when its reserved ranges are zero, every field
holds a listed value, and the laws between fields, features and versions hold. Fields are written here as numbers of the register's
value. (Reserved ranges as zero, and the reserved values of SRMASK and NV_frac, are the spec's decisions D3 and D24.) -/
def Obligations.WellFormedConfigurationsAreTheSpecs : Prop :=
  ∀ cfg : Config, cfg.wellFormed = true ↔
    (let field (lo : Nat) := cfg.idmmfr4.toNat / 2 ^ lo % 16
     cfg.idmmfr4.toNat / 2 ^ 48 = 0 ∧ field 40 = 0 ∧ field 32 = 0 ∧
     field 44 ≤ 1 ∧ (cfg.fromArmv9_6 = true → field 44 = 1) ∧
     field 36 ≤ 1 ∧ field 28 ≤ 1 ∧
     (field 24 = 0 ∨ field 24 = 14 ∨ field 24 = 15) ∧
     (field 24 = 14 → cfg.featNV = true) ∧ (field 24 ≠ 0 → cfg.featVHE = true) ∧
     field 20 ≤ 2 ∧ (field 20 ≠ 0 → cfg.featNV = true ∧ cfg.featNV2 = true) ∧
     field 16 ≤ 1 ∧ field 12 ≤ 1 ∧
     field 8 ≤ 1 ∧ (cfg.fromArmv9_5 = true → field 8 = 1) ∧
     (field 4 ≤ 2 ∨ field 4 = 15) ∧ (field 4 ≠ 0 → cfg.featIESB = true) ∧
     field 0 ≤ 1 ∧
     (cfg.fromArmv9_6 = true → cfg.fromArmv9_5 = true) ∧ cfg.featAA64 = true)

/-- 10_state.md R42 and 00_scope.md R3: the all-zero register passes every check when the implementation is not from Armv9.5 on,
whatever the features are. -/
def Obligations.ZeroRegisterIsALegalConfiguration : Prop :=
  ∀ cfg : Config, cfg.idmmfr4 = 0#64 → cfg.featAA64 = true → cfg.fromArmv9_5 = false → cfg.fromArmv9_6 = false →
    cfg.wellFormed = true

/-- 10_state.md R24 and R38, of every well-formed configuration: without FEAT_NV the value 0b1110 of E2H0 is not permitted, and
without FEAT_IESB the only permitted value of EIESB is 0b0000. -/
def Obligations.FeaturesLimitE2h0AndEiesb : Prop :=
  ∀ cfg : Config, cfg.wellFormed = true →
    (cfg.featNV = false → cfg.idmmfr4.extractLsb' 24 4 ≠ 0b1110#4) ∧
    (cfg.featIESB = false → cfg.idmmfr4.extractLsb' 4 4 = 0b0000#4)

/-- 10_state.md R25: the three cases of what E2H0 promises about HCR_EL2.E2H. -/
def Obligations.E2hFollowsTheThreeCases : Prop :=
  ∀ cfg : Config, cfg.wellFormed = true →
    (implementsFeature cfg .e2h0 = some true → implementsFeature cfg .vhe = some false → hcrEl2E2h cfg = .res0) ∧
    (implementsFeature cfg .e2h0 = some true → implementsFeature cfg .vhe = some true → hcrEl2E2h cfg = .programmable) ∧
    (implementsFeature cfg .e2h0 = some false →
      implementsFeature cfg .vhe = some true ∧ hcrEl2E2h cfg = .res1 ∧
      ∀ programmed, effectiveBit (hcrEl2E2h cfg) programmed = 1#1)

/-- 10_state.md R35, R36: what each EIESB value promises of an exception taken with SCTLR_ELx.IESB = 1, exactly under its row's
condition; nothing when SCTLR_ELx.IESB is 0. With 0b0001 nothing is described when SError exceptions are not routed to EL3, or when
FEAT_DoubleFault is implemented and the Effective value of SCR_EL3.NMEA is 0. -/
def Obligations.EiesbPromisesItsRowsAndNoMore : Prop :=
  ∀ c : ErrorSyncContext,
    (c.iesb = 0#1 → ∀ v, errorSyncPromise v c = .notDescribed) ∧
    (c.iesb = 1#1 →
      let el3Row := c.target = .el3 ∧ c.serrorRoutedTo = .el3 ∧ (c.featDoubleFault = false ∨ c.scrEl3Nmea = 1#1)
      let el1Row := c.target = .el1 ∧ c.serrorRoutedTo = .el1 ∧ (c.featDoubleFault2 = false ∨ c.sctlr2El1Nmea = 1#1)
      let el2Row := c.target = .el2 ∧ c.serrorRoutedTo = .el2 ∧ (c.featDoubleFault2 = false ∨ c.sctlr2El2Nmea = 1#1)
      (errorSyncPromise 0b0001#4 c = .before ↔ el3Row) ∧ errorSyncPromise 0b0001#4 c ≠ .mightBeAfter ∧
      (errorSyncPromise 0b0010#4 c = .before ↔ el3Row ∨ el1Row ∨ el2Row) ∧ errorSyncPromise 0b0010#4 c ≠ .mightBeAfter ∧
      (errorSyncPromise 0b1111#4 c = .mightBeAfter ↔ el3Row) ∧ errorSyncPromise 0b1111#4 c ≠ .before ∧
      errorSyncPromise 0b0000#4 c = .notDescribed)

/-- 10_state.md R36: where the field does not describe the case, the placement stays open; where it promises "before", the event is
before. The open placement is a free value (log entry 14). -/
def Obligations.UndescribedErrorSyncPlacementIsFree : Prop :=
  ∀ (v : BitVec 4) (c : ErrorSyncContext) (n : Nat),
    (errorSyncPromise v c = .before → errorSyncPlacement v c n = .before) ∧
    (errorSyncPromise v c ≠ .before → errorSyncPlacement v c n = Config.freeErrorSyncPlacement n)

/-- 10_state.md R37: with the event before the exception, an SError exception that it makes pending, not masked and not disabled, is
taken in place of the original exception. That the original exception is taken in every other case is the model's reading
(log entry 14). -/
def Obligations.SErrorIsTakenInPlaceOfTheOriginal : Prop :=
  ∀ (p : ErrorSyncPlacement) (pends masked disabled : Bool),
    exceptionTaken p pends masked disabled = .serror ↔ p = .before ∧ pends = true ∧ masked = false ∧ disabled = false

/-- 10_state.md R39, R40: `DC CIVAPS` is implemented exactly with PoPS = 0b0001, and `DC CIGDVAPS` exactly where FEAT_MTE2 is too. -/
def Obligations.PopsAdvertisesItsInstructions : Prop :=
  ∀ (cfg : Config) (mte2 : Bool),
    (.dcCivaps ∈ popsInstructions cfg mte2 ↔ cfg.idmmfr4.extractLsb' 0 4 = 0b0001#4) ∧
    (.dcCigdvaps ∈ popsInstructions cfg mte2 ↔ cfg.idmmfr4.extractLsb' 0 4 = 0b0001#4 ∧ mte2 = true)

/-- 60_exceptions.md R102 (general knowledge, log entry 10): the syndrome of a trapped read is `0x6238000F + (t << 5)`. -/
def Obligations.TrapSyndromeIsThisNumber : Prop :=
  ∀ t : Fin 32, trapSyndrome t = 0x6238000F#32 + (BitVec.ofNat 32 t.val <<< 5)

/-! ### Invariants of the machine -/

/-- Every step keeps the launch premises: a well-formed configuration, a pc that is a multiple of 4 (also where it wraps), EL3 only
where it is implemented, and program text in canonical form (10_state.md R42, R44; 20_memory.md R63). It rests on the decisions that the
pc advances by 4 (the spec's D7, log entry 13), that no handler is entered (D8, D9, D19, log entry 9), that the register is constant
(D2, log entry 20) and that the text is fixed (D18, log entry 8). -/
def Obligations.StepKeepsTheLaunchInvariant : Prop :=
  ∀ s s' : State, LaunchInvariant s → step s = .next s' → LaunchInvariant s'

/-- The machine after reset meets the launch premises, whichever well-formed configuration the implementation has. (Reset's pc and
level are the model's choice, log entries 1 and 2.) -/
def Obligations.ResetMeetsTheLaunchInvariant : Prop := LaunchInvariant State.reset

/-- What reset leaves: the register, with the configuration it stands in, is the constant of a well-formed implementation
(70_reset_and_hazards.md R120; log entry 4) with FEAT_AA64, the launch premise (00_scope.md R2). The spec states no other value (10_state.md
R47, 70_reset_and_hazards.md R121), so all the rest is the model's choice: the general registers, with XZR reading as zero (log entries
1 and 12), the pc, every state input and the pending SError (log entry 1), with no schedule and no free inputs taken (log entries 1 and
3); EL3, on a PE that has EL3 (log entry 2); the byte order (log entry 5); and no program text (log entries 7 and 8). -/
def Obligations.ResetLeavesTheLoggedValues : Prop :=
  State.reset.cfg = Config.implementation ∧ Config.implementation.wellFormed = true ∧
  (∀ t : Fin 32, readX t State.reset = 0#64) ∧ State.reset.pc = 0#64 ∧
  State.reset.inputs =
    { el2Enabled := false, hcrEl2Tge := 0#1, hcrEl2Tid3 := 0#1, scrEl3Tid3 := 0#1,
      el3SddUndef := false, el3SddUndefPriority := false } ∧
  State.reset.serrorPending = false ∧ State.reset.laterInputs = [] ∧ State.reset.freeInputsTaken = 0 ∧
  State.reset.el = .el3 ∧ State.reset.cfg.haveEL3 = true ∧
  State.reset.cfg.featAA64 = true ∧ State.reset.cfg.insnEndianness = .little ∧
  ∀ a : Nat, readByte State.reset.text a = none

/-- What no step of this machine does. Every clause rests on a decision: it does not change the configuration with the register (10_state.md
R41; the spec's D2, log entry 20), nor PSTATE.EL, since UNDEFINED and the trap end the run with no handler entered (60_exceptions.md R106,
R109; D8, D9, D19, log entry 9) and every other word is refused (30_encoding.md R75, D14), nor the pending SError, since no asynchronous
exception is taken (60_exceptions.md R110, R111; D27, log entry 11), nor the program text, which is a fixed launch parameter
(20_memory.md R67; D18, log entry 8), and no other agent acts (D26, log entry 21). A general register changes to the register's value
or not at all (40_mrs_id_aa64mmfr4_el1.md R91). -/
def Obligations.NoStepChangesLevelRegisterOrText : Prop :=
  ∀ s s' : State, step s = .next s' →
    s'.cfg = s.cfg ∧ s'.el = s.el ∧ s'.serrorPending = s.serrorPending ∧ s'.text = s.text ∧
    ∀ t : Fin 32, readX t s' = readX t s ∨ readX t s' = s.cfg.idmmfr4

/-- 10_state.md R41 (with D2, log entry 20), under the premise "no asynchronous exception is taken during the run" (60_exceptions.md R110,
D27, log entry 11) and with no other agent acting (D26, log entry 21): a run of any length, whatever state inputs come in during it,
leaves the register as it was and each general register at its old value or the register's value; and where the step after it runs the
MRS and completes, the destination holds that value, the same for every read of the run. -/
def Obligations.RunsReadOneAndTheSameValue : Prop :=
  ∀ (n : Nat) (s s' : State), Sys2Proof.core.run n s = .next s' →
    s'.cfg = s.cfg ∧ (∀ t : Fin 32, readX t s' = readX t s ∨ readX t s' = s.cfg.idmmfr4) ∧
    ∀ (t : Fin 32) (s'' : State), fetch s' = .instruction (.mrsIdAa64mmfr4El1 t) → step s' = .next s'' →
      t.val < 31 → readX t s'' = s.cfg.idmmfr4

/-- 10_state.md R44 (the spec's decision D7, log entry 13) and 60_exceptions.md R109 (D19), under the premise "no asynchronous exception is
taken during the run" (60_exceptions.md R110, D27, log entry 11) and with no other agent acting (D26, log entry 21): a run of `n`
completed steps advances the pc by `4n`, modulo 2^64, and stays at its Exception level. -/
def Obligations.RunsAdvanceThePcByFourAStep : Prop :=
  ∀ (n : Nat) (s s' : State), Sys2Proof.core.run n s = .next s' →
    s'.pc = s.pc + BitVec.ofNat 64 (4 * n) ∧ s'.el = s.el
end

