-- ==== Sys2Proof/Laws/State.lean ====
section
/-! SUPPORT. One small lemma per field per update of the state, so that no later proof unfolds a record update. -/

namespace Sys2Proof.Machine

open Sys2Proof

/-! ### `advancePc` -/

@[simp] theorem advancePc_cfg (s : State) : (advancePc s).cfg = s.cfg := rfl
@[simp] theorem advancePc_x (s : State) : (advancePc s).x = s.x := rfl
@[simp] theorem advancePc_pc (s : State) : (advancePc s).pc = s.pc + 4#64 := rfl
@[simp] theorem advancePc_el (s : State) : (advancePc s).el = s.el := rfl
@[simp] theorem advancePc_inputs (s : State) : (advancePc s).inputs = s.inputs := rfl
@[simp] theorem advancePc_laterInputs (s : State) : (advancePc s).laterInputs = s.laterInputs := rfl
@[simp] theorem advancePc_freeInputsTaken (s : State) : (advancePc s).freeInputsTaken = s.freeInputsTaken := rfl
@[simp] theorem advancePc_serrorPending (s : State) : (advancePc s).serrorPending = s.serrorPending := rfl
@[simp] theorem advancePc_text (s : State) : (advancePc s).text = s.text := rfl

/-! ### `writeX` -/

theorem writeX_of_lt (t : Fin 32) (v : Word) (s : State) (h : t.val < 31) :
    writeX t v s = { s with x := s.x.set t.val v h } := by
  simp [writeX, h]

/-- A write of number 31, XZR, is discarded (10_state.md R43). -/
theorem writeX_xzr (t : Fin 32) (v : Word) (s : State) (h : ¬ t.val < 31) : writeX t v s = s := by
  simp [writeX, h]

@[simp] theorem writeX_cfg (t : Fin 32) (v : Word) (s : State) : (writeX t v s).cfg = s.cfg := by
  unfold writeX; split <;> rfl
@[simp] theorem writeX_pc (t : Fin 32) (v : Word) (s : State) : (writeX t v s).pc = s.pc := by
  unfold writeX; split <;> rfl
@[simp] theorem writeX_el (t : Fin 32) (v : Word) (s : State) : (writeX t v s).el = s.el := by
  unfold writeX; split <;> rfl
@[simp] theorem writeX_inputs (t : Fin 32) (v : Word) (s : State) : (writeX t v s).inputs = s.inputs := by
  unfold writeX; split <;> rfl
@[simp] theorem writeX_laterInputs (t : Fin 32) (v : Word) (s : State) : (writeX t v s).laterInputs = s.laterInputs := by
  unfold writeX; split <;> rfl
@[simp] theorem writeX_freeInputsTaken (t : Fin 32) (v : Word) (s : State) : (writeX t v s).freeInputsTaken = s.freeInputsTaken := by
  unfold writeX; split <;> rfl
@[simp] theorem writeX_serrorPending (t : Fin 32) (v : Word) (s : State) : (writeX t v s).serrorPending = s.serrorPending := by
  unfold writeX; split <;> rfl
@[simp] theorem writeX_text (t : Fin 32) (v : Word) (s : State) : (writeX t v s).text = s.text := by
  unfold writeX; split <;> rfl

theorem writeX_x_self (t : Fin 32) (v : Word) (s : State) (h : t.val < 31) : (writeX t v s).x[t.val] = v := by
  simp [writeX_of_lt t v s h]

theorem writeX_x_other (t : Fin 32) (v : Word) (s : State) (i : Nat) (hi : i < 31) (hne : i ≠ t.val) :
    (writeX t v s).x[i] = s.x[i] := by
  by_cases h : t.val < 31
  · rw [writeX_of_lt t v s h]
    exact Vector.getElem_set_ne h hi (Ne.symm hne)
  · rw [writeX_xzr t v s h]

/-! ### `takeNextInputs` -/

@[simp] theorem takeNextInputs_cfg (s : State) : (takeNextInputs s).cfg = s.cfg := by
  unfold takeNextInputs; split <;> rfl
@[simp] theorem takeNextInputs_x (s : State) : (takeNextInputs s).x = s.x := by
  unfold takeNextInputs; split <;> rfl
@[simp] theorem takeNextInputs_pc (s : State) : (takeNextInputs s).pc = s.pc := by
  unfold takeNextInputs; split <;> rfl
@[simp] theorem takeNextInputs_el (s : State) : (takeNextInputs s).el = s.el := by
  unfold takeNextInputs; split <;> rfl
@[simp] theorem takeNextInputs_serrorPending (s : State) : (takeNextInputs s).serrorPending = s.serrorPending := by
  unfold takeNextInputs; split <;> rfl
@[simp] theorem takeNextInputs_text (s : State) : (takeNextInputs s).text = s.text := by
  unfold takeNextInputs; split <;> rfl

/-- The schedule's first entry comes in (00_scope.md R6). -/
theorem takeNextInputs_scheduled (s : State) (i : StepInputs) (rest : List StepInputs) (h : s.laterInputs = i :: rest) :
    takeNextInputs s = { s with inputs := i, laterInputs := rest } := by
  simp [takeNextInputs, h]

/-- Without a schedule the inputs are free values (log entry 3). -/
theorem takeNextInputs_free (s : State) (h : s.laterInputs = []) :
    takeNextInputs s =
      { s with inputs := Config.freeStepInputs s.freeInputsTaken, freeInputsTaken := s.freeInputsTaken + 1 } := by
  simp [takeNextInputs, h]

/-! ### `readX` -/

/-- Number 31 reads as zero. -/
theorem readX_xzr (t : Fin 32) (s : State) (h : ¬ t.val < 31) : readX t s = 0#64 := by
  simp [readX, h]

theorem readX_writeX_self (t : Fin 32) (v : Word) (s : State) (h : t.val < 31) : readX t (writeX t v s) = v := by
  simp only [readX, h, dite_true]
  exact writeX_x_self t v s h

theorem readX_writeX_other (t u : Fin 32) (v : Word) (s : State) (h : u ≠ t) : readX u (writeX t v s) = readX u s := by
  simp only [readX]
  split
  · exact writeX_x_other t v s u.val (by assumption) fun e => h (Fin.ext e)
  · rfl

@[simp] theorem readX_advancePc (t : Fin 32) (s : State) : readX t (advancePc s) = readX t s := rfl

@[simp] theorem readX_takeNextInputs (t : Fin 32) (s : State) : readX t (takeNextInputs s) = readX t s := by
  simp [readX]

/-! ### `State.withFetchWord` -/

@[simp] theorem withFetchWord_cfg (s : State) (n w : Nat) : (s.withFetchWord n w).cfg = s.cfg := rfl
@[simp] theorem withFetchWord_x (s : State) (n w : Nat) : (s.withFetchWord n w).x = s.x := rfl
@[simp] theorem withFetchWord_pc (s : State) (n w : Nat) : (s.withFetchWord n w).pc = s.pc := rfl
@[simp] theorem withFetchWord_el (s : State) (n w : Nat) : (s.withFetchWord n w).el = s.el := rfl
@[simp] theorem withFetchWord_inputs (s : State) (n w : Nat) : (s.withFetchWord n w).inputs = s.inputs := rfl
@[simp] theorem withFetchWord_laterInputs (s : State) (n w : Nat) : (s.withFetchWord n w).laterInputs = s.laterInputs := rfl
@[simp] theorem withFetchWord_freeInputsTaken (s : State) (n w : Nat) : (s.withFetchWord n w).freeInputsTaken = s.freeInputsTaken := rfl
@[simp] theorem withFetchWord_serrorPending (s : State) (n w : Nat) : (s.withFetchWord n w).serrorPending = s.serrorPending := rfl
@[simp] theorem withFetchWord_text (s : State) (n w : Nat) : (s.withFetchWord n w).text =
    writeBytes s.text s.pc (bytesOfWord s.cfg.insnEndianness (BitVec.ofNat 32 (w % 2 ^ n))) := rfl

end Sys2Proof.Machine
end

