-- ==== Sys2Proof/Laws/Step.lean ====
section
/-! SUPPORT. What a step can do, said once: the cases of the fetch, of the meaning and of the step. Proofs about next states cite
these and unfold nothing. -/

namespace Sys2Proof.Machine

open Sys2Proof

/-- The only next state the instruction has (40_mrs_id_aa64mmfr4_el1.md R91). -/
theorem exec_next_cases {t : Fin 32} {s s' : State} (h : exec (.mrsIdAa64mmfr4El1 t) s = .next s') :
    accessOutcome s = .value ∧ s' = advancePc (writeX t s.cfg.idmmfr4 s) := by
  simp only [exec, execMrsIdAa64mmfr4El1] at h
  split at h
  · exact ⟨‹_›, by simpa using h.symm⟩
  · simp [raiseUndefined] at h
  · simp [raiseSystemAccessTrap] at h

theorem exec_of_value {t : Fin 32} {s : State} (h : accessOutcome s = .value) :
    exec (.mrsIdAa64mmfr4El1 t) s = .next (advancePc (writeX t s.cfg.idmmfr4 s)) := by
  simp [exec, execMrsIdAa64mmfr4El1, h]

theorem exec_of_undefined {t : Fin 32} {s : State} (h : accessOutcome s = .undefined) :
    exec (.mrsIdAa64mmfr4El1 t) s = .fault (.undefined s.pc t) := by
  simp [exec, execMrsIdAa64mmfr4El1, h, raiseUndefined]

theorem exec_of_trap {t : Fin 32} {s : State} {target : ExceptionLevel} (h : accessOutcome s = .trap target) :
    exec (.mrsIdAa64mmfr4El1 t) s = .fault (.systemAccessTrap target systemAccessTrapCode s.pc t) := by
  simp [exec, execMrsIdAa64mmfr4El1, h, raiseSystemAccessTrap]

/-- A step that answers a next state executed one instruction, and the next step's inputs came in. -/
theorem step_next_cases {s s' : State} (h : step s = .next s') :
    ∃ t, fetch s = .instruction (.mrsIdAa64mmfr4El1 t) ∧ accessOutcome s = .value ∧
      s' = takeNextInputs (advancePc (writeX t s.cfg.idmmfr4 s)) := by
  unfold step at h
  split at h
  · rename_i i hf
    obtain ⟨t⟩ := i
    unfold finishStep at h
    split at h
    · rename_i s1 he
      obtain ⟨ho, rfl⟩ := exec_next_cases he
      exact ⟨t, hf, ho, by simpa using h.symm⟩
    · cases h
    · cases h
  · cases h
  · cases h
  · cases h

/-- Fetching an instruction needs an aligned pc and four bytes that decode to it. -/
theorem fetch_instruction_iff (s : State) (i : Instr) :
    fetch s = .instruction i ↔
      pcAligned s = true ∧ ∃ bs rest, fetchBytes s = some bs ∧ decodeBytes s.cfg.insnEndianness bs = .ok (i, rest) := by
  unfold fetch
  constructor
  · intro h
    split at h
    · rename_i ha
      split at h
      · cases h
      · rename_i bs hb
        split at h
        · rename_i j rest hd
          cases h
          exact ⟨ha, bs, rest, hb, hd⟩
        · cases h
    · cases h
  · rintro ⟨ha, bs, rest, hb, hd⟩
    simp [ha, hb, hd]

@[simp] theorem finishStep_next (s : State) : finishStep (.next s) = .next (takeNextInputs s) := rfl
@[simp] theorem finishStep_fault (f : Fault) : finishStep (.fault f) = .fault f := rfl
@[simp] theorem finishStep_refused (r : Refusal) : finishStep (.refused r) = .refused r := rfl

/-- What a step answers, by what the fetch answers. -/
theorem step_of_instruction {s : State} {i : Instr} (h : fetch s = .instruction i) : step s = finishStep (exec i s) := by
  simp [step, h]

theorem step_of_misaligned {s : State} (h : pcAligned s = false) : step s = .fault (.misalignedPc s.pc) := by
  simp [step, fetch, h]

theorem step_of_noText {s : State} (ha : pcAligned s = true) (h : fetchBytes s = none) :
    step s = .fault (.noProgramText s.pc) := by
  simp [step, fetch, ha, h]

theorem step_of_undecoded {s : State} {bs : List Byte} {r : DecodeRefusal} (ha : pcAligned s = true)
    (h : fetchBytes s = some bs) (hd : decodeBytes s.cfg.insnEndianness bs = .error r) :
    step s = .refused (.undecoded r) := by
  simp [step, fetch, ha, h, hd]

/-- The alignment test on the pc's two low bits says that the pc is a multiple of 4 (20_memory.md R63). -/
theorem pcAligned_iff (s : State) : pcAligned s = true ↔ s.pc.toNat % 4 = 0 := by
  simp only [pcAligned, beq_iff_eq]
  rw [← BitVec.toNat_inj]
  simp [BitVec.extractLsb'_toNat]

end Sys2Proof.Machine
end

