-- ==== Sys2Proof/Laws/Access.lean ====
section
/-! SUPPORT. The tests of the access, one lemma per level, and how each outcome shows in what the MRS answers. -/

namespace Sys2Proof.Machine

open Sys2Proof

theorem accessOutcome_noAa64 (s : State) (h : s.cfg.featAA64 = false) : accessOutcome s = .undefined := by
  simp [accessOutcome, h, unimplementedIdRegister]

theorem accessOutcome_el0 (s : State) (h : s.cfg.featAA64 = true) (he : s.el = .el0) :
    accessOutcome s = accessFromEl0 s := by
  simp [accessOutcome, h, he]

theorem accessOutcome_el1 (s : State) (h : s.cfg.featAA64 = true) (he : s.el = .el1) :
    accessOutcome s = accessFromEl1 s := by
  simp [accessOutcome, h, he]

theorem accessOutcome_el2 (s : State) (h : s.cfg.featAA64 = true) (he : s.el = .el2) :
    accessOutcome s = accessFromEl2 s := by
  simp [accessOutcome, h, he]

theorem accessOutcome_el3 (s : State) (h : s.cfg.featAA64 = true) (he : s.el = .el3) : accessOutcome s = .value := by
  simp [accessOutcome, h, he, accessFromEl3]

/-- The tests look at the configuration, the level and the state inputs alone. -/
theorem accessOutcome_congr (s r : State) (hc : s.cfg = r.cfg) (he : s.el = r.el) (hi : s.inputs = r.inputs) :
    accessOutcome s = accessOutcome r := by
  simp only [accessOutcome, accessFromEl0, accessFromEl1, accessFromEl2, tid3El3, tid3El2, tge, hcrTid3Applies,
    el2TrapCondition, hc, he, hi]
  rfl

/-- What the MRS answers, by the outcome of the tests. -/
theorem exec_cases (t : Fin 32) (s : State) :
    (accessOutcome s = .value ∧ exec (.mrsIdAa64mmfr4El1 t) s = .next (advancePc (writeX t s.cfg.idmmfr4 s))) ∨
    (accessOutcome s = .undefined ∧ exec (.mrsIdAa64mmfr4El1 t) s = .fault (.undefined s.pc t)) ∨
    ∃ target, accessOutcome s = .trap target ∧
      exec (.mrsIdAa64mmfr4El1 t) s = .fault (.systemAccessTrap target systemAccessTrapCode s.pc t) := by
  cases ho : accessOutcome s with
  | value => exact .inl ⟨rfl, exec_of_value ho⟩
  | undefined => exact .inr (.inl ⟨rfl, exec_of_undefined ho⟩)
  | trap target => exact .inr (.inr ⟨target, rfl, exec_of_trap ho⟩)

end Sys2Proof.Machine
end

