-- ==== Sys2Proof/Laws/Decode.lean ====
section
/-! SUPPORT. The small lemmas of the decode layer: a word goes to bytes and back. -/

namespace Sys2Proof

/-- The word of given fields has those fields (30_encoding.md R71). -/
theorem fieldsOfWord_wordOfFields (f : MrsWordFields) : fieldsOfWord (wordOfFields f) = f := by
  obtain ⟨fixed, l, ⟨op0, op1, crn, crm, op2⟩, rt⟩ := f
  simp only [fieldsOfWord, wordOfFields, MrsWordFields.mk.injEq, SysRegKey.mk.injEq]
  refine ⟨?_, ?_, ⟨?_, ?_, ?_, ?_, ?_⟩, ?_⟩ <;>
    (ext i hi; simp only [BitVec.getElem_extractLsb', BitVec.getLsbD_append]; interval_cases i <;> simp)

/-- A word is the word of its fields: no bit is left out (30_encoding.md R71). -/
theorem wordOfFields_fieldsOfWord (w : InsnWord) : wordOfFields (fieldsOfWord w) = w := by
  simp only [fieldsOfWord, wordOfFields]
  iterate 7 rw [BitVec.extractLsb'_append_extractLsb'_eq_extractLsb' (by rfl)]
  exact BitVec.extractLsb'_eq_self

/-- A word is its four bytes (20_memory.md R62). -/
theorem bytes_append_eq_word (w : InsnWord) :
    w.extractLsb' 24 8 ++ w.extractLsb' 16 8 ++ w.extractLsb' 8 8 ++ w.extractLsb' 0 8 = w := by
  iterate 3 rw [BitVec.extractLsb'_append_extractLsb'_eq_extractLsb' (by rfl)]
  exact BitVec.extractLsb'_eq_self

/-- Where a word decodes, so do the bytes it is laid out as, in either byte order (20_memory.md R62). -/
theorem decodeBytes_of_ok (e : Endianness) (w : InsnWord) (rest : List Byte) (i : Instr) (h : decodeWord w = .ok i) :
    decodeBytes e (bytesOfWord e w ++ rest) = .ok (i, rest) := by
  cases e <;> simp [bytesOfWord, decodeBytes, wordOfBytes, bytes_append_eq_word, h]

/-- Where a word is refused, so are the bytes it is laid out as, for the same reason. -/
theorem decodeBytes_of_error (e : Endianness) (w : InsnWord) (rest : List Byte) (r : DecodeRefusal)
    (h : decodeWord w = .error r) : decodeBytes e (bytesOfWord e w ++ rest) = .error r := by
  cases e <;> simp [bytesOfWord, decodeBytes, wordOfBytes, bytes_append_eq_word, h]

/-- Fewer than four bytes are refused by name. -/
theorem decodeBytes_truncated (e : Endianness) (bs : List Byte) (h : bs.length < 4) :
    decodeBytes e bs = .error (.truncated bs.length) := by
  match bs, h with
  | [], _ => rfl
  | [_], _ => rfl
  | [_, _], _ => rfl
  | [_, _, _], _ => rfl

end Sys2Proof
end

