-- ==== Sys2Proof/Laws/Memory.lean ====
section
/-! SUPPORT. The laws of the program text: a read after a write, the frame of a write, and that every operation keeps the
canonical form. -/

namespace Sys2Proof.Machine

open Sys2Proof

theorem readByte_none_of_lt (m : Memory) (a : Nat) (h : ∀ c ∈ m, a < c.1) : readByte m a = none := by
  induction m with
  | nil => rfl
  | cons c m ih =>
    have hc : a < c.1 := h c (by simp)
    have : a ≠ c.1 := Nat.ne_of_lt hc
    simp [readByte, this, ih fun d hd => h d (by simp [hd])]

/-- A byte written is the byte read. -/
theorem readByte_writeByte_same (m : Memory) (a : Nat) (v : Byte) : readByte (writeByte m a v) a = some v := by
  induction m with
  | nil => simp [writeByte, readByte]
  | cons c m ih =>
    obtain ⟨b, w⟩ := c
    rcases Nat.lt_trichotomy a b with h | h | h
    · simp [writeByte, readByte, h]
    · simp [writeByte, readByte, h]
    · have h1 : ¬ a < b := by omega
      have h2 : a ≠ b := by omega
      simp [writeByte, readByte, h1, h2, ih]

/-- A write leaves every other address as it was. -/
theorem readByte_writeByte_other (m : Memory) (a b : Nat) (v : Byte) (h : b ≠ a) :
    readByte (writeByte m a v) b = readByte m b := by
  induction m with
  | nil => simp [writeByte, readByte, h]
  | cons c m ih =>
    obtain ⟨d, w⟩ := c
    by_cases h1 : a < d
    · simp [writeByte, readByte, h1, h]
    · by_cases h2 : a = d
      · subst h2
        simp [writeByte, readByte, h]
      · simp [writeByte, readByte, h1, h2, ih]

theorem mem_writeByte (m : Memory) (a : Nat) (v : Byte) (c : Host.Cell) (h : c ∈ writeByte m a v) :
    c = (a, v) ∨ c ∈ m := by
  induction m with
  | nil => simpa [writeByte] using h
  | cons d m ih =>
    obtain ⟨b, w⟩ := d
    by_cases h1 : a < b
    · simpa [writeByte, h1] using h
    · by_cases h2 : a = b
      · subst h2
        simp [writeByte] at h
        rcases h with h | h <;> simp [h]
      · simp [writeByte, h1, h2] at h
        rcases h with h | h
        · simp [h]
        · rcases ih h with h | h <;> simp [h]

/-- A write of a byte keeps the canonical form. -/
theorem writeByte_wf (m : Memory) (a : Nat) (v : Byte) (ha : a < 2 ^ 64) (h : Memory.wf m) :
    Memory.wf (writeByte m a v) := by
  refine ⟨?_, fun c hc => ?_⟩
  · have hp := h.1
    clear h
    induction m with
    | nil => simp [writeByte]
    | cons d m ih =>
      obtain ⟨b, w⟩ := d
      obtain ⟨hb, hm⟩ := List.pairwise_cons.1 hp
      rcases Nat.lt_trichotomy a b with h1 | h1 | h1
      · simp only [writeByte, h1, if_true, List.pairwise_cons]
        refine ⟨fun c hc => ?_, hb, hm⟩
        rcases List.mem_cons.1 hc with rfl | hc
        · exact h1
        · exact Nat.lt_trans h1 (hb c hc)
      · subst h1
        simpa [writeByte] using And.intro hb hm
      · have h2 : ¬ a < b := by omega
        have h3 : a ≠ b := by omega
        simp only [writeByte, h2, h3, if_false, List.pairwise_cons]
        refine ⟨fun c hc => ?_, ih hm⟩
        rcases mem_writeByte m a v c hc with rfl | hc
        · exact h1
        · exact hb c hc
  · rcases mem_writeByte m a v c hc with rfl | hc
    · exact ha
    · exact h.2 c hc

/-- A write of several bytes keeps the canonical form. -/
theorem writeBytes_wf (m : Memory) (a : Word) (bs : List Byte) (h : Memory.wf m) : Memory.wf (writeBytes m a bs) := by
  induction bs generalizing m a with
  | nil => exact h
  | cons b bs ih => exact ih _ _ (writeByte_wf m a.toNat b a.isLt h)

/-- Placing a program keeps the canonical form. -/
theorem placeWords_wf (e : Endianness) (m : Memory) (base : Word) (ws : List InsnWord) (h : Memory.wf m) :
    Memory.wf (placeWords e m base ws) := by
  induction ws generalizing m base with
  | nil => exact h
  | cons w ws ih => exact ih _ _ (writeBytes_wf m base _ h)

/-- The four bytes written at an address are the four bytes read there. -/
theorem readBytes_writeBytes_four (m : Memory) (a : Word) (b0 b1 b2 b3 : Byte) :
    readBytes (writeBytes m a [b0, b1, b2, b3]) a 4 = some [b0, b1, b2, b3] := by
  have h1 : (a + 1#64).toNat ≠ a.toNat := by bv_omega
  have h2 : (a + 1#64 + 1#64).toNat ≠ a.toNat := by bv_omega
  have h3 : (a + 1#64 + 1#64 + 1#64).toNat ≠ a.toNat := by bv_omega
  have h4 : (a + 1#64 + 1#64).toNat ≠ (a + 1#64).toNat := by bv_omega
  have h5 : (a + 1#64 + 1#64 + 1#64).toNat ≠ (a + 1#64).toNat := by bv_omega
  have h6 : (a + 1#64 + 1#64 + 1#64).toNat ≠ (a + 1#64 + 1#64).toNat := by bv_omega
  simp only [writeBytes, readBytes, readByte_writeByte_same,
    readByte_writeByte_other _ _ _ _ h1.symm, readByte_writeByte_other _ _ _ _ h2.symm,
    readByte_writeByte_other _ _ _ _ h3.symm, readByte_writeByte_other _ _ _ _ h4.symm,
    readByte_writeByte_other _ _ _ _ h5.symm, readByte_writeByte_other _ _ _ _ h6.symm]

end Sys2Proof.Machine
end

