-- ==== Sys2Proof/Laws/PerInstr.lean ====
section
/-! SUPPORT. Statements made for every instruction, one lemma per constructor. -/

namespace Sys2Proof.Laws

/-- The word of a well-formed instruction matches the opcode table's row: `word & mask = match` (30_encoding.md R71,
spec/opcode_table.json row 1). -/
def EncodingMatchesTable.Statement (i : Instr) : Prop :=
  i.wellFormed = true ∧ encode i &&& 0xFFFFFFE0#32 = 0xD5380780#32

theorem EncodingMatchesTable.mrsIdAa64mmfr4El1 (t : Fin 32) : EncodingMatchesTable.Statement (.mrsIdAa64mmfr4El1 t) := by
  unfold EncodingMatchesTable.Statement
  revert t
  decide

end Sys2Proof.Laws
end

