-- ==== Sys2Proof/Tests/Slice0.lean ====
section
/-! SUPPORT. The model's own tests, and a witness for the hypotheses of each statement. Expected results are the vectors of
95_test_vectors.md, named beside each test. -/

namespace Sys2Proof.Tests

open Sys2Proof Sys2Proof.Machine

/-! ### Helpers -/

/-- The register value of vector V14. -/
def v14 : Word := 0x000010100F211121#64

/-- The configuration of vector W22 with the given register value, FEAT_IDST, FEAT_IDTE3 and EL3 but no FEAT_FGT. -/
def cfgOf (v : Word) : Config where
  idmmfr4 := v
  featAA64 := true
  featIDST := true
  featIDTE3 := true
  featFGT := false
  haveEL3 := true
  tid3TrapsZeroReg := false
  featVHE := true
  featNV := true
  featNV2 := true
  featIESB := true
  fromArmv9_5 := false
  fromArmv9_6 := false
  insnEndianness := .little

/-- State inputs with EL2 enabled or not, the bits TGE, HCR_EL2.TID3 and SCR_EL3.TID3, and the two debug predicates. -/
def inputsOf (el2 : Bool) (tge tid3 scr : Bit) (sdd prio : Bool) : StepInputs := ⟨el2, tge, tid3, scr, sdd, prio⟩

/-- A small state: the pc at 0x1000, every register 7, no text. -/
def stateOf (cfg : Config) (el : ExceptionLevel) (i : StepInputs) : State where
  cfg := cfg
  x := Vector.replicate 31 7#64
  pc := 0x1000#64
  el := el
  inputs := i
  laterInputs := []
  freeInputsTaken := 0
  serrorPending := false
  text := []

/-- No trap bit set. -/
def quiet : StepInputs := inputsOf false 0 0 0 false false

/-- The state at EL3 with a program of the given words at the pc, in the launch's byte order. -/
def el3Program (ws : List InsnWord) : State := launch (stateOf (cfgOf v14) .el3 quiet) 0x1000#64 ws

/-! ### Decoding: words written out from the encoding tables (vectors E1 to E14) -/

/-- 30_encoding.md R71 bit by bit: fixed, L, op0, op1, CRn, CRm, op2, Rt (vector E3). -/
theorem test_decode_mrs_x5_bit_by_bit :
    decodeWord 0b1101010100_1_11_000_0000_0111_100_00101#32 = .ok (.mrsIdAa64mmfr4El1 5) := by decide

theorem test_decode_E1 : decodeTableWord 32 0xD5380780 = some (.mrsIdAa64mmfr4El1 0) := by decide
theorem test_decode_E2 : decodeTableWord 32 0xD5380781 = some (.mrsIdAa64mmfr4El1 1) := by decide
theorem test_decode_E4 : decodeTableWord 32 0xD538079E = some (.mrsIdAa64mmfr4El1 30) := by decide
theorem test_decode_E5 : decodeTableWord 32 0xD538079F = some (.mrsIdAa64mmfr4El1 31) := by decide

/-- The bytes of E3 in memory, `85 07 38 D5`. -/
theorem test_bytes_of_E3 : encodeBytes .little (.mrsIdAa64mmfr4El1 5) = [0x85#8, 0x07#8, 0x38#8, 0xD5#8] := by decide

/-- Vector E6, the write form, and E7, another key. -/
theorem test_refuse_E6_E7 :
    decodeWord 0xD5180780#32 = .error (.writeForm 0) ∧
    decodeWord 0xD5380760#32 = .error (.otherKey 1#1 ⟨0b11#2, 0b000#3, 0b0000#4, 0b0111#4, 0b011#3⟩) := by decide

/-- Vectors E8 to E14 are refused. -/
theorem test_refuse_E8_to_E14 :
    [0xD53807A0, 0xD5380680, 0xD5381780, 0xD5390780, 0xD5300780, 0x55380780, 0x00000000].all
      (fun w => decodeTableWord 32 w == none) = true := by decide

theorem test_refuse_truncated : decodeBytes .little [0x85#8, 0x07#8, 0x38#8] = .error (.truncated 3) := by decide

/-- The two spellings of 30_encoding.md R76. -/
theorem test_assembly :
    assembly (.mrsIdAa64mmfr4El1 5) = "MRS X5, ID_AA64MMFR4_EL1" ∧
    genericAssembly (.mrsIdAa64mmfr4El1 31) = "MRS XZR, S3_0_C0_C7_4" := by decide

/-! ### Well-formedness: an ill-formed term for each check (vectors W2 to W23), and well-formed ones -/

theorem test_wf_res0 : [0x0001000000000000#64, 0x0000010000000000#64, 0x0000000100000000#64].all
    (fun v => firstFailedCheck (cfgOf v) == some .res0 && !(cfgOf v).wellFormed) = true := by decide
theorem test_wf_srmask : firstFailedCheck (cfgOf 0x0000200000000000#64) = some .srmask := by decide
theorem test_wf_srmaskV96 :
    firstFailedCheck { cfgOf 0x0000000000000100#64 with fromArmv9_5 := true, fromArmv9_6 := true } = some .srmaskV96 := by decide
theorem test_wf_e3dse : firstFailedCheck (cfgOf 0x0000002000000000#64) = some .e3dse := by decide
theorem test_wf_rmegdi : firstFailedCheck (cfgOf 0x0000000020000000#64) = some .rmegdi := by decide
theorem test_wf_e2h0 : firstFailedCheck (cfgOf 0x0000000001000000#64) = some .e2h0 := by decide
theorem test_wf_e2h0Nv : firstFailedCheck { cfgOf 0x000000000E000000#64 with featNV := false } = some .e2h0Nv := by decide
theorem test_wf_e2h0Vhe : firstFailedCheck { cfgOf 0x000000000F000000#64 with featVHE := false } = some .e2h0Vhe := by decide
theorem test_wf_nvFrac : firstFailedCheck (cfgOf 0x0000000000300000#64) = some .nvFrac := by decide
theorem test_wf_nvFracNv : firstFailedCheck { cfgOf 0x0000000000100000#64 with featNV2 := false } = some .nvFracNv := by decide
theorem test_wf_fgwte3 : firstFailedCheck (cfgOf 0x0000000000020000#64) = some .fgwte3 := by decide
theorem test_wf_hacdbs : firstFailedCheck (cfgOf 0x0000000000002000#64) = some .hacdbs := by decide
theorem test_wf_asid2 : firstFailedCheck (cfgOf 0x0000000000000200#64) = some .asid2 := by decide
theorem test_wf_asid2V95 : firstFailedCheck { cfgOf 0#64 with fromArmv9_5 := true } = some .asid2V95 := by decide
theorem test_wf_eiesb : firstFailedCheck (cfgOf 0x0000000000000030#64) = some .eiesb := by decide
theorem test_wf_eiesbIesb : firstFailedCheck { cfgOf 0x0000000000000010#64 with featIESB := false } = some .eiesbIesb := by decide
theorem test_wf_pops : firstFailedCheck (cfgOf 0x0000000000000002#64) = some .pops := by decide
theorem test_wf_versions : firstFailedCheck { cfgOf v14 with fromArmv9_6 := true } = some .versions := by decide
theorem test_wf_aa64 : firstFailedCheck { cfgOf v14 with featAA64 := false } = some .aa64 := by decide

/-- Vectors W1, W4, W11, W13, W16, W20 and W22 are well formed. -/
theorem test_wellFormed_vectors :
    [cfgOf 0#64, { cfgOf 0x0000100000000100#64 with fromArmv9_5 := true, fromArmv9_6 := true }, cfgOf 0x000000000E000000#64,
     { cfgOf 0x000000000F000000#64 with featNV := false }, cfgOf 0x0000000000200000#64, cfgOf 0x00000000000000F0#64,
     { cfgOf v14 with fromArmv9_5 := true, fromArmv9_6 := true }].all (fun c => c.wellFormed) = true := by decide

/-- A base that is not a multiple of 4, and one whose program would wrap, are refused. -/
theorem test_placement :
    placementWellFormed 0x1002#64 1 = false ∧ placementWellFormed 0xFFFFFFFFFFFFFFFC#64 1 = false ∧
    placementWellFormed 0x1000#64 3 = true := by decide

/-- Vectors V14, V15 and V16 of the layout. -/
theorem test_layout_vectors :
    idValueOfFields ⟨1, 1, 0, 0b1111, 0b0010, 1, 1, 1, 0b0010, 1⟩ = v14 ∧
    idValueOfFields ⟨1, 1, 1, 0b1111, 0b0010, 1, 1, 1, 0b1111, 1⟩ = 0x000010101F2111F1#64 ∧
    idFieldsOfValue 0x000010000E100100#64 = ⟨1, 0, 0, 0b1110, 0b0001, 0, 0, 1, 0, 0⟩ := by decide

/-! ### The instruction and the step -/

/-- Program P1, its first step: `MRS X0` at EL3 puts the register in x[0] and moves the pc by 4. -/
theorem test_step_P1 :
    (match step (el3Program [0xD5380780#32, 0xD5380781#32, 0xD538079F#32]) with
     | .next s => readX 0 s == v14 && readX 1 s == 7#64 && s.pc == 0x1004#64
     | _ => false) = true := by decide

/-- Outcomes at EL1 that turn on the order of the tests: vectors V28, V30, V34, V37, V38, V39, V40, V41, V43. -/
theorem test_outcomes_at_el1 :
    [(v14, inputsOf true 0 1 0 false false, AccessOutcome.trap .el2),
     (0#64, inputsOf true 0 1 0 false false, .value),
     (v14, inputsOf false 0 0 1 false false, .trap .el3),
     (v14, inputsOf true 0 1 1 false false, .trap .el2),
     (v14, inputsOf true 0 1 1 true false, .trap .el2),
     (v14, inputsOf true 0 1 1 true true, .undefined),
     (v14, inputsOf true 0 1 1 false true, .undefined),
     (v14, inputsOf false 0 0 1 true false, .undefined),
     (0#64, inputsOf true 0 1 1 false false, .trap .el3)].all
      (fun r => accessOutcome (stateOf (cfgOf r.1) .el1 r.2.1) == r.2.2) = true := by decide

/-! ### Witnesses: a state and operands that meet the hypotheses of each statement, clause by clause -/

theorem witness_El3ReadAlwaysReturnsTheRegister :
    let s := stateOf (cfgOf v14) .el3 (inputsOf true 0 1 1 true true)
    s.cfg.featAA64 = true ∧ s.el = .el3 ∧ (30 : Fin 32).val < 31 := by decide

theorem witness_El0ReadTrapsOrIsUndefined :
    let s := fun (c : Config) (i : StepInputs) => stateOf c .el0 i
    ((s (cfgOf v14) (inputsOf true 1 0 0 false false)).cfg.featIDST = true ∧
      (s (cfgOf v14) (inputsOf true 1 0 0 false false)).inputs.el2Enabled = true ∧
      (s (cfgOf v14) (inputsOf true 1 0 0 false false)).inputs.hcrEl2Tge = 1#1) ∧
    (s (cfgOf v14) (inputsOf false 1 0 0 false false)).inputs.el2Enabled = false ∧
    (s (cfgOf v14) (inputsOf true 0 0 0 false false)).inputs.hcrEl2Tge = 0#1 ∧
    (s { cfgOf v14 with featIDST := false } quiet).cfg.featIDST = false ∧
    (s (cfgOf v14) quiet).cfg.featAA64 = true ∧ (s (cfgOf v14) quiet).el = .el0 := by decide

/-- One state for each of the five ends of the chain of tests. -/
theorem witness_El1ReadFollowsItsFourTests :
    let s := fun i => stateOf (cfgOf v14) .el1 i
    (∀ i, (s i).cfg.featAA64 = true ∧ (s i).el = .el1 ∧ (s i).cfg.haveEL3 = true ∧ (s i).cfg.featIDTE3 = true) ∧
    ((s (inputsOf true 0 1 1 true true)).inputs.scrEl3Tid3 = 1#1 ∧
      (s (inputsOf true 0 1 1 true true)).inputs.el3SddUndefPriority = true) ∧
    ((s (inputsOf true 0 1 1 true false)).inputs.el3SddUndefPriority = false ∧
      (s (inputsOf true 0 1 1 true false)).inputs.el2Enabled = true ∧
      (s (inputsOf true 0 1 1 true false)).cfg.idmmfr4 ≠ 0#64 ∧
      (s (inputsOf true 0 1 1 true false)).inputs.hcrEl2Tid3 = 1#1) ∧
    ((s (inputsOf false 0 1 1 true false)).inputs.el2Enabled = false ∧
      (s (inputsOf false 0 1 1 true false)).inputs.el3SddUndef = true) ∧
    (s (inputsOf false 0 1 1 false false)).inputs.el3SddUndef = false ∧
    (s quiet).inputs.scrEl3Tid3 ≠ 1#1 ∧ (s quiet).inputs.el2Enabled = false :=
  ⟨fun _ => ⟨rfl, rfl, rfl, rfl⟩, by decide, by decide, by decide, by decide, by decide, by decide⟩

/-- One state for each of the four ends of the chain of tests. -/
theorem witness_El2ReadFollowsItsThreeTests :
    let s := fun i => stateOf (cfgOf v14) .el2 i
    (∀ i, (s i).cfg.featAA64 = true ∧ (s i).el = .el2 ∧ (s i).cfg.haveEL3 = true ∧ (s i).cfg.featIDTE3 = true) ∧
    ((s (inputsOf true 1 1 1 false true)).inputs.scrEl3Tid3 = 1#1 ∧
      (s (inputsOf true 1 1 1 false true)).inputs.el3SddUndefPriority = true) ∧
    ((s (inputsOf true 1 1 1 true false)).inputs.el3SddUndefPriority = false ∧
      (s (inputsOf true 1 1 1 true false)).inputs.el3SddUndef = true) ∧
    (s (inputsOf true 1 1 1 false false)).inputs.el3SddUndef = false ∧
    (s (inputsOf true 1 1 0 true true)).inputs.scrEl3Tid3 ≠ 1#1 :=
  ⟨fun _ => ⟨rfl, rfl, rfl, rfl⟩, by decide, by decide, by decide, by decide⟩

/-- Vector V50. -/
theorem witness_WithoutAa64EveryReadIsUndefined :
    (stateOf { cfgOf v14 with featAA64 := false } .el3 quiet).cfg.featAA64 = false := by decide

/-- A completing state at each level, the EL1 one with HCR_EL2.TID3 set and a zero register (vector V30), and one for each way the
EL3 trap is out of force. -/
theorem witness_CompletingReadAnswersThisState :
    (stateOf (cfgOf v14) .el3 (inputsOf true 0 1 1 true true)).el = .el3 ∧
    (stateOf { cfgOf v14 with haveEL3 := false } .el2 (inputsOf false 0 0 1 true true)).cfg.haveEL3 = false ∧
    (stateOf { cfgOf v14 with featIDTE3 := false } .el2 (inputsOf false 0 0 1 true true)).cfg.featIDTE3 = false ∧
    (stateOf (cfgOf v14) .el2 (inputsOf true 1 1 0 true true)).inputs.scrEl3Tid3 = 0#1 ∧
    (stateOf (cfgOf v14) .el1 (inputsOf false 0 1 0 true true)).inputs.el2Enabled = false ∧
    (stateOf (cfgOf v14) .el1 (inputsOf true 0 0 0 true true)).inputs.hcrEl2Tid3 = 0#1 ∧
    (let s := stateOf (cfgOf 0#64) .el1 (inputsOf true 0 1 0 false false)
     s.cfg.featAA64 = true ∧ s.el = .el1 ∧ s.inputs.scrEl3Tid3 = 0#1 ∧
      s.cfg.featFGT = false ∧ s.cfg.idmmfr4 = 0#64 ∧ s.cfg.tid3TrapsZeroReg = false) := by decide

theorem witness_ReadCompletesOnlyThere :
    Completes (.mrsIdAa64mmfr4El1 5) (stateOf (cfgOf 0#64) .el1 (inputsOf true 0 1 0 false false)) := ⟨_, rfl⟩

/-- FEAT_AA64 at each of the four levels. -/
theorem witness_OutcomesOfEachLevel :
    [ExceptionLevel.el0, .el1, .el2, .el3].all (fun el => (stateOf (cfgOf v14) el quiet).cfg.featAA64) = true := by decide

/-- A trap to EL1, one to EL2 and one to EL3. -/
theorem witness_TrapsNeverGoToALowerLevel :
    exec (.mrsIdAa64mmfr4El1 5) (stateOf (cfgOf v14) .el0 quiet) = .fault (.systemAccessTrap .el1 0x18 0x1000#64 5) ∧
    exec (.mrsIdAa64mmfr4El1 5) (stateOf (cfgOf v14) .el1 (inputsOf true 0 1 0 false false)) =
      .fault (.systemAccessTrap .el2 0x18 0x1000#64 5) ∧
    exec (.mrsIdAa64mmfr4El1 31) (stateOf (cfgOf v14) .el2 (inputsOf true 0 1 1 false false)) =
      .fault (.systemAccessTrap .el3 0x18 0x1000#64 31) := ⟨rfl, rfl, rfl⟩

theorem witness_ExceptionalOutcomeRecordsPcAndDestination :
    ∃ f, exec (.mrsIdAa64mmfr4El1 5) (stateOf (cfgOf v14) .el2 (inputsOf true 0 1 1 true false)) = .fault f := ⟨_, rfl⟩

theorem witness_CompletingReadChangesOnlyItsDestination :
    (∃ s', exec (.mrsIdAa64mmfr4El1 5) (stateOf (cfgOf v14) .el2 quiet) = .next s') ∧ (6 : Fin 32) ≠ 5 := ⟨⟨_, rfl⟩, by decide⟩

theorem witness_XzrReadDiscardsTheValueButIsStillChecked :
    ∃ s', exec (.mrsIdAa64mmfr4El1 31) (stateOf (cfgOf v14) .el3 quiet) = .next s' := ⟨_, rfl⟩

/-- Two states that agree on what the outcome reads and differ in registers, pc, text and a non-zero register value. -/
theorem witness_OutcomeIgnoresRegistersPcAndMemory :
    let s := stateOf (cfgOf v14) .el1 quiet
    let r := { stateOf (cfgOf 1#64) .el1 quiet with
      pc := 0x2000#64, x := Vector.replicate 31 9#64, text := [(0, 0#8)] }
    s.el = r.el ∧ s.inputs = r.inputs ∧ s.cfg.featAA64 = r.cfg.featAA64 ∧ s.cfg.featIDST = r.cfg.featIDST ∧
    s.cfg.featIDTE3 = r.cfg.featIDTE3 ∧ s.cfg.featFGT = r.cfg.featFGT ∧ s.cfg.haveEL3 = r.cfg.haveEL3 ∧
    s.cfg.tid3TrapsZeroReg = r.cfg.tid3TrapsZeroReg ∧ (s.cfg.idmmfr4 = 0#64 ↔ r.cfg.idmmfr4 = 0#64) := by decide

/-- Vectors V38 and V39. -/
theorem witness_El1TrapToEl2OutranksTrapToEl3 :
    [false, true].all (fun prio =>
      let s := stateOf (cfgOf v14) .el1 (inputsOf true 0 1 1 true prio)
      s.cfg.featAA64 && s.el == .el1 && s.cfg.haveEL3 && s.cfg.featIDTE3 && s.inputs.scrEl3Tid3 == 1#1 && s.inputs.el2Enabled &&
        s.cfg.idmmfr4 != 0#64 && s.inputs.hcrEl2Tid3 == 1#1 && s.inputs.el3SddUndefPriority == prio) = true := by decide

theorem witness_SecondReadReturnsTheSameValue :
    ∃ s1, exec (.mrsIdAa64mmfr4El1 4) (stateOf (cfgOf v14) .el1 quiet) = .next s1 := ⟨_, rfl⟩

theorem witness_StepRunsTheDecodedInstruction :
    let s := el3Program [0xD5380785#32]
    s.pc.toNat % 4 = 0 ∧ readBytes s.text s.pc 4 = some [0x85#8, 0x07#8, 0x38#8, 0xD5#8] ∧
    decodeBytes s.cfg.insnEndianness [0x85#8, 0x07#8, 0x38#8, 0xD5#8] = .ok (.mrsIdAa64mmfr4El1 5, []) ∧
    (Instr.mrsIdAa64mmfr4El1 5).wellFormed = true := by decide

theorem witness_StepRunsThePlacedInstruction : (el3Program []).pc.toNat % 4 = 0 := by decide

theorem witness_MisalignedPcHasNoStep : ({ el3Program [] with pc := 0x1002#64 } : State).pc.toNat % 4 ≠ 0 := by decide

/-- The first byte missing, and only the fourth. -/
theorem witness_StepOutsideTheProgramTextStops :
    ((el3Program []).pc.toNat % 4 = 0 ∧ readByte (el3Program []).text 0x1000 = none) ∧
    (let s : State := { el3Program [] with text := [(0x1000, 0x85#8), (0x1001, 0x07#8), (0x1002, 0x38#8)] }
     s.pc.toNat % 4 = 0 ∧ 3 < 4 ∧ readByte s.text (s.pc.toNat + 3) = none) := by decide

/-- Program P6: the write form. -/
theorem witness_OtherWordsAreRefusedNotUndefined :
    let s := el3Program [0xD5180780#32]
    s.pc.toNat % 4 = 0 ∧ readBytes s.text s.pc 4 = some (bytesOfWord s.cfg.insnEndianness 0xD5180780#32) ∧
    0xD5180780#32 &&& 0xFFFFFFE0#32 ≠ 0xD5380780#32 := by decide

theorem witness_NoStepCompletesAtEl0 : (stateOf (cfgOf v14) .el0 quiet).el = .el0 := by decide

theorem witness_DecodeOfEncodeIsTheInstruction : (Instr.mrsIdAa64mmfr4El1 31).wellFormed = true := by decide

theorem witness_DecodedWordIsTheEncoding : decodeWord 0xD538079F#32 = .ok (.mrsIdAa64mmfr4El1 31) := by decide

theorem witness_RegisterValueIsItsTenFields : res0RangesZero v14 = true := by decide

theorem witness_ZeroRegisterIsALegalConfiguration :
    (cfgOf 0#64).idmmfr4 = 0#64 ∧ (cfgOf 0#64).featAA64 = true ∧ (cfgOf 0#64).fromArmv9_5 = false ∧
    (cfgOf 0#64).fromArmv9_6 = false := by decide

theorem witness_FeaturesLimitE2h0AndEiesb :
    (let c := { cfgOf 0x000000000F000000#64 with featNV := false }
     c.wellFormed = true ∧ c.featNV = false) ∧
    (let c := { cfgOf 0#64 with featIESB := false }
     c.wellFormed = true ∧ c.featIESB = false) := by decide

/-- A well-formed configuration for each of the three cases. -/
theorem witness_E2hFollowsTheThreeCases :
    (let c := { cfgOf 0#64 with featVHE := false }
     c.wellFormed = true ∧ implementsFeature c .e2h0 = some true ∧ implementsFeature c .vhe = some false) ∧
    ((cfgOf 0#64).wellFormed = true ∧ implementsFeature (cfgOf 0#64) .e2h0 = some true ∧
      implementsFeature (cfgOf 0#64) .vhe = some true) ∧
    ((cfgOf v14).wellFormed = true ∧ implementsFeature (cfgOf v14) .e2h0 = some false) := by decide

/-- A context with SCTLR_ELx.IESB at 0 and one with it at 1, under row 0b0001's condition (example S2). -/
theorem witness_EiesbPromisesItsRowsAndNoMore :
    let c : ErrorSyncContext := ⟨.el3, 1, .el3, true, false, 1, 0, 0⟩
    c.iesb = 1#1 ∧ ({ c with iesb := 0 } : ErrorSyncContext).iesb = 0#1 ∧ errorSyncPromise 0b0001#4 c = .before ∧
    errorSyncPromise 0b0001#4 { c with scrEl3Nmea := 0 } = .notDescribed := by decide

theorem witness_UndescribedErrorSyncPlacementIsFree :
    let c : ErrorSyncContext := ⟨.el3, 1, .el3, true, false, 1, 0, 0⟩
    errorSyncPromise 0b0001#4 c = .before ∧ errorSyncPromise 0b0000#4 c ≠ .before := by decide

theorem witness_StepKeepsTheLaunchInvariant :
    LaunchInvariant (el3Program [0xD5380785#32]) ∧ ∃ s', step (el3Program [0xD5380785#32]) = .next s' :=
  ⟨⟨by decide, by decide, fun _ => rfl, by decide⟩, ⟨_, rfl⟩⟩

theorem witness_NoStepChangesLevelRegisterOrText : ∃ s', step (el3Program [0xD5380785#32]) = .next s' := ⟨_, rfl⟩

/-- A run of one step, after which the second word reads again. -/
theorem witness_RunsReadOneAndTheSameValue :
    ∃ s' s'', Sys2Proof.core.run 1 (el3Program [0xD5380780#32, 0xD538079E#32]) = .next s' ∧
      fetch s' = .instruction (.mrsIdAa64mmfr4El1 30) ∧ step s' = .next s'' ∧ (30 : Fin 32).val < 31 :=
  ⟨_, _, rfl, by decide, rfl, by decide⟩

theorem witness_RunsAdvanceThePcByFourAStep :
    ∃ s', Sys2Proof.core.run 2 (el3Program [0xD5380780#32, 0xD5380781#32]) = .next s' := ⟨_, rfl⟩

end Sys2Proof.Tests
end

section
/-! Proofs of the family 10_state: facts about a step and a run. A step is taken apart by `step_next_cases` alone, and a run by
the one induction `run_next_induction`. -/

namespace Sys2Proof.Machine

open Sys2Proof

/-! ### One step -/

/-- The two cases of a read after a write, where neither the register's number nor XZR matters (10_state.md R43). -/
theorem readX_writeX_eq_or (t u : Fin 32) (v : Word) (s : State) :
    readX u (writeX t v s) = readX u s ∨ readX u (writeX t v s) = v := by
  by_cases hut : u = t
  · subst hut
    by_cases hu : u.val < 31
    · exact .inr (readX_writeX_self u v s hu)
    · exact .inl (by rw [writeX_xzr u v s hu])
  · exact .inl (readX_writeX_other t u v s hut)

theorem step_next_pc {s s' : State} (h : step s = .next s') : s'.pc = s.pc + 4#64 := by
  obtain ⟨t, -, -, rfl⟩ := step_next_cases h
  simp

/-- 10_state.md R43, 40_mrs_id_aa64mmfr4_el1.md R91: the step that runs the MRS leaves the register in its destination. -/
theorem step_next_readX_destination {t : Fin 32} {s s' : State} (hf : fetch s = .instruction (.mrsIdAa64mmfr4El1 t))
    (h : step s = .next s') (ht : t.val < 31) : readX t s' = s.cfg.idmmfr4 := by
  obtain ⟨u, hu, -, rfl⟩ := step_next_cases h
  obtain rfl : t = u := by simpa [hf] using hu
  simp [readX_writeX_self t _ s ht]

/-- Settles O43: the one next state of a step is a register write, the pc's advance and the next inputs, and none of the three
touches what the statement names. -/
theorem noStepChangesLevelRegisterOrText : Obligations.NoStepChangesLevelRegisterOrText := by
  intro s s' h
  obtain ⟨t, -, -, rfl⟩ := step_next_cases h
  refine ⟨by simp, by simp, by simp, by simp, fun u => ?_⟩
  simpa using readX_writeX_eq_or t u s.cfg.idmmfr4 s

/-! ### Runs -/

/-- A run of `n + 1` completed steps is a completed step and a run of `n` from where it ends. -/
theorem run_succ_next_iff (M : Host.Core) (n : Nat) (s s' : M.State) :
    M.run (n + 1) s = .next s' ↔ ∃ s₁, M.step s = .next s₁ ∧ M.run n s₁ = .next s' := by
  rw [Host.Core.run]
  cases M.step s <;> simp

/-- The induction of every statement about runs: a relation that holds of no steps, and that a first step put before a run
keeps, holds between the two ends of every run. -/
theorem run_next_induction {M : Host.Core} {R : Nat → M.State → M.State → Prop} (zero : ∀ s, R 0 s s)
    (succ : ∀ n s s₁ s', M.step s = .next s₁ → R n s₁ s' → R (n + 1) s s')
    {n : Nat} {s s' : M.State} (h : M.run n s = .next s') : R n s s' := by
  induction n generalizing s with
  | zero =>
    cases h
    exact zero _
  | succ n ih =>
    obtain ⟨s₁, hstep, hrun⟩ := (run_succ_next_iff M n s s').1 h
    exact succ n s s₁ s' hstep (ih hrun)

/-- What every step keeps, every run keeps. -/
theorem run_next_keeps {α : Type} {f : State → α} (hkeeps : ∀ s s₁ : State, step s = .next s₁ → f s₁ = f s)
    {n : Nat} {s s' : State} (h : Sys2Proof.core.run n s = .next s') : f s' = f s :=
  run_next_induction (M := core) (R := fun _ (s s' : State) => f s' = f s) (fun _ => rfl)
    (fun _ s s₁ _ hstep ih => ih.trans (hkeeps s s₁ hstep)) h

theorem run_next_cfg {n : Nat} {s s' : State} (h : Sys2Proof.core.run n s = .next s') : s'.cfg = s.cfg := by
  refine run_next_keeps (fun s s₁ hstep => ?_) h
  obtain ⟨hcfg, -⟩ := noStepChangesLevelRegisterOrText s s₁ hstep
  exact hcfg

theorem run_next_el {n : Nat} {s s' : State} (h : Sys2Proof.core.run n s = .next s') : s'.el = s.el := by
  refine run_next_keeps (fun s s₁ hstep => ?_) h
  obtain ⟨-, hel, -⟩ := noStepChangesLevelRegisterOrText s s₁ hstep
  exact hel

theorem run_next_pc {n : Nat} {s s' : State} (h : Sys2Proof.core.run n s = .next s') :
    s'.pc = s.pc + BitVec.ofNat 64 (4 * n) := by
  refine run_next_induction (M := core) (R := fun n (s s' : State) => s'.pc = s.pc + BitVec.ofNat 64 (4 * n)) (fun s => by simp) ?_ h
  intro n s s₁ s' hstep ih
  calc s'.pc = s₁.pc + BitVec.ofNat 64 (4 * n) := ih
    _ = s.pc + 4#64 + BitVec.ofNat 64 (4 * n) := by rw [step_next_pc hstep]
    _ = s.pc + BitVec.ofNat 64 (4 * (n + 1)) := by
      rw [BitVec.add_assoc, ← BitVec.ofNat_add, Nat.mul_succ, Nat.add_comm 4]

/-- 10_state.md R41: over a run, a general register keeps its value or gains the register's. -/
theorem run_next_readX_eq_or (t : Fin 32) {n : Nat} {s s' : State} (h : Sys2Proof.core.run n s = .next s') :
    readX t s' = readX t s ∨ readX t s' = s.cfg.idmmfr4 := by
  refine run_next_induction (M := core) (R := fun _ (s s' : State) => readX t s' = readX t s ∨ readX t s' = s.cfg.idmmfr4)
    (fun _ => .inl rfl) ?_ h
  intro _ s s₁ s' hstep ih
  obtain ⟨hcfg, -, -, -, hx⟩ := noStepChangesLevelRegisterOrText s s₁ hstep
  rw [hcfg] at ih
  rcases ih with hold | hreg
  · rw [hold]
    exact hx t
  · exact .inr hreg

/-- Settles O44: the configuration stands over the run, so the read after it returns the value of every read before it. -/
theorem runsReadOneAndTheSameValue : Obligations.RunsReadOneAndTheSameValue := by
  intro n s s' h
  have hcfg : s'.cfg = s.cfg := run_next_cfg h
  refine ⟨hcfg, fun t => run_next_readX_eq_or t h, fun t s'' hf hstep ht => ?_⟩
  rw [← hcfg]
  exact step_next_readX_destination hf hstep ht

/-- Settles O45, by the induction over the run for the pc and for the level. -/
theorem runsAdvanceThePcByFourAStep : Obligations.RunsAdvanceThePcByFourAStep :=
  fun _ _ _ h => ⟨run_next_pc h, run_next_el h⟩

end Sys2Proof.Machine
end

section
/-! Proofs of the family 10_state: facts about well-formed configurations. -/

namespace Sys2Proof

theorem WfCheck.mem_all (c : WfCheck) : c ∈ WfCheck.all := by
  cases c <;> decide

/-- 10_state.md R42: a configuration is well formed when each named check holds, and only then. -/
theorem Config.wellFormed_iff (cfg : Config) : cfg.wellFormed = true ↔ ∀ c, checkHolds cfg c = true := by
  simp [Config.wellFormed, WfCheck.mem_all]

/-- 10_state.md R24, from the check of that name. -/
theorem e2h0_ne_of_featNV_false {cfg : Config} (hwf : cfg.wellFormed = true) (hnv : cfg.featNV = false) :
    idField .e2h0 cfg.idmmfr4 ≠ 0b1110#4 := by
  have hcheck := cfg.wellFormed_iff.1 hwf .e2h0Nv
  simpa [checkHolds, hnv] using hcheck

/-- 10_state.md R38, from the check of that name. -/
theorem eiesb_eq_zero_of_featIESB_false {cfg : Config} (hwf : cfg.wellFormed = true) (hiesb : cfg.featIESB = false) :
    idField .eiesb cfg.idmmfr4 = 0b0000#4 := by
  have hcheck := cfg.wellFormed_iff.1 hwf .eiesbIesb
  simpa [checkHolds, hiesb] using hcheck

/-- 10_state.md R25, from the check of that name: without FEAT_E2H0 there is FEAT_VHE. -/
theorem featVHE_of_e2h0_ne_zero {cfg : Config} (hwf : cfg.wellFormed = true) (he : idField .e2h0 cfg.idmmfr4 ≠ 0b0000#4) :
    cfg.featVHE = true := by
  have hcheck := cfg.wellFormed_iff.1 hwf .e2h0Vhe
  simpa [checkHolds, he] using hcheck

/-- Settles O33: each clause is one named check. -/
theorem featuresLimitE2h0AndEiesb : Obligations.FeaturesLimitE2h0AndEiesb :=
  fun _ hwf => ⟨e2h0_ne_of_featNV_false hwf, eiesb_eq_zero_of_featIESB_false hwf⟩

/-! ### HCR_EL2.E2H -/

theorem implementsFeature_e2h0_true_iff (cfg : Config) :
    implementsFeature cfg .e2h0 = some true ↔ idField .e2h0 cfg.idmmfr4 = 0b0000#4 := by
  simp [implementsFeature]

theorem implementsFeature_e2h0_false_iff (cfg : Config) :
    implementsFeature cfg .e2h0 = some false ↔ idField .e2h0 cfg.idmmfr4 ≠ 0b0000#4 := by
  simp [implementsFeature]

theorem implementsFeature_vhe_iff (cfg : Config) (b : Bool) : implementsFeature cfg .vhe = some b ↔ cfg.featVHE = b := by
  simp [implementsFeature]

theorem hcrEl2E2h_of_e2h0_eq_zero {cfg : Config} (he : idField .e2h0 cfg.idmmfr4 = 0b0000#4) :
    hcrEl2E2h cfg = if cfg.featVHE then .programmable else .res0 := by
  simp [hcrEl2E2h, he]

theorem hcrEl2E2h_of_e2h0_ne_zero {cfg : Config} (he : idField .e2h0 cfg.idmmfr4 ≠ 0b0000#4) : hcrEl2E2h cfg = .res1 := by
  simp [hcrEl2E2h, he]

/-- Settles O34: E2H0 says which case it is; that the third has FEAT_VHE is a check of the configuration. -/
theorem e2hFollowsTheThreeCases : Obligations.E2hFollowsTheThreeCases := by
  intro cfg hwf
  simp only [implementsFeature_e2h0_true_iff, implementsFeature_e2h0_false_iff, implementsFeature_vhe_iff]
  refine ⟨fun he hvhe => ?_, fun he hvhe => ?_, fun he => ?_⟩
  · simp [hcrEl2E2h_of_e2h0_eq_zero he, hvhe]
  · simp [hcrEl2E2h_of_e2h0_eq_zero he, hvhe]
  · have hres1 : hcrEl2E2h cfg = .res1 := hcrEl2E2h_of_e2h0_ne_zero he
    refine ⟨featVHE_of_e2h0_ne_zero hwf he, hres1, fun programmed => ?_⟩
    rw [hres1]
    rfl

/-! ### The implementation's configuration -/

theorem Config.formerlyReserved_wellFormed : Config.formerlyReserved.wellFormed = true := by decide

/-- The implementation is one of its two candidates, and a well-formed one (log entry 4). -/
theorem Config.implementation_cases :
    (Config.implementation = Config.free ∧ Config.free.wellFormed = true) ∨
      Config.implementation = Config.formerlyReserved := by
  unfold Config.implementation
  split
  next hfree => exact .inl ⟨rfl, hfree⟩
  next => exact .inr rfl

theorem Config.implementation_wellFormed : Config.implementation.wellFormed = true := by
  obtain ⟨himpl, hfree⟩ | himpl := Config.implementation_cases
  · rw [himpl, hfree]
  · rw [himpl, Config.formerlyReserved_wellFormed]

/-- Both candidates have FEAT_AA64 (00_scope.md R2), EL3 (log entry 2) and the little-endian order (log entry 5). -/
theorem Config.implementation_written_out :
    Config.implementation.featAA64 = true ∧ Config.implementation.haveEL3 = true ∧
      Config.implementation.insnEndianness = .little := by
  obtain ⟨himpl, -⟩ | himpl := Config.implementation_cases
  · rw [himpl]
    exact ⟨rfl, rfl, rfl⟩
  · rw [himpl]
    exact ⟨rfl, rfl, rfl⟩

end Sys2Proof

namespace Sys2Proof.Machine

open Sys2Proof

/-! ### The state after reset -/

/-- The three fields that reset writes out are the implementation's own. -/
theorem reset_cfg : State.reset.cfg = Config.implementation := by
  obtain ⟨haa64, hel3, hend⟩ := Config.implementation_written_out
  calc State.reset.cfg
      = { Config.implementation with featAA64 := true, haveEL3 := true, insnEndianness := .little } := rfl
    _ = { Config.implementation with
          featAA64 := Config.implementation.featAA64
          haveEL3 := Config.implementation.haveEL3
          insnEndianness := Config.implementation.insnEndianness } := by rw [haa64, hel3, hend]
    _ = Config.implementation := rfl

theorem readX_reset (t : Fin 32) : readX t State.reset = 0#64 := by
  by_cases ht : t.val < 31
  · simp [readX, ht, State.reset]
  · exact readX_xzr t State.reset ht

/-- Settles O42: the configuration and the general registers are the two lemmas above; every other field is as `State.reset`
writes it. -/
theorem resetLeavesTheLoggedValues : Obligations.ResetLeavesTheLoggedValues :=
  ⟨reset_cfg, Config.implementation_wellFormed, readX_reset, rfl, rfl, rfl, rfl, rfl, rfl, rfl, rfl, rfl, fun _ => rfl⟩

end Sys2Proof.Machine
end

section
/-! Proofs of the family 20_memory: facts about two reads, the second from the state the first left. A read that completes is
taken apart by `exec_next_cases` alone. -/

namespace Sys2Proof.Machine

open Sys2Proof

/-- Writing to any register the value that a register holds leaves that register as it was. -/
theorem readX_writeX_of_readX_eq {t : Fin 32} {v : Word} {s : State} (h : readX t s = v) (u : Fin 32) :
    readX t (writeX u v s) = v := by
  rcases readX_writeX_eq_or u t v s with hkept | hwritten
  · rw [hkept, h]
  · exact hwritten

/-- A read that completes leaves all that its tests look at: what they answered before it, they answer after it. -/
theorem accessOutcome_advancePc_writeX (t : Fin 32) (v : Word) (s : State) :
    accessOutcome (advancePc (writeX t v s)) = accessOutcome s :=
  accessOutcome_congr _ _ (by simp) (by simp) (by simp)

/-- Settles O16: the tests answer the same again, so the second read completes; it writes the same register's value, so the first
destination keeps it, whether or not it is the second destination too. -/
theorem secondReadReturnsTheSameValue : Obligations.SecondReadReturnsTheSameValue := by
  intro t u s s₁ hread
  obtain ⟨hvalue, rfl⟩ := exec_next_cases hread
  refine ⟨_, exec_of_value ((accessOutcome_advancePc_writeX t _ s).trans hvalue), fun ht => ?_, fun hu => ?_⟩
  · have hfirst : readX t (advancePc (writeX t s.cfg.idmmfr4 s)) = s.cfg.idmmfr4 := by
      simp [readX_writeX_self t _ s ht]
    simpa using readX_writeX_of_readX_eq hfirst u
  · simp [readX_writeX_self u _ _ hu]

end Sys2Proof.Machine
end

section
/-! Proofs of the family 40_mrs_id_aa64mmfr4_el1: how a read ends at each Exception level. Each test of the access is said once as
the condition the spec prints, each outcome of the tests as the end of the read it leads to. -/

namespace Sys2Proof.Machine

open Sys2Proof

/-! ### The tests of the access, as the spec prints them (40_mrs_id_aa64mmfr4_el1.md section 2, R84) -/

theorem tid3El3_iff (s : State) :
    tid3El3 s = true ↔ s.cfg.haveEL3 = true ∧ s.cfg.featIDTE3 = true ∧ s.inputs.scrEl3Tid3 = 1#1 := by
  simp [tid3El3, and_assoc]

theorem tid3El2_iff (s : State) : tid3El2 s = true ↔ s.inputs.hcrEl2Tid3 = 1#1 := by
  simp [tid3El2]

theorem tge_iff (s : State) : tge s = true ↔ s.inputs.hcrEl2Tge = 1#1 := by
  simp [tge]

theorem hcrTid3Applies_iff (s : State) :
    hcrTid3Applies s = true ↔ s.cfg.featFGT = true ∨ s.cfg.idmmfr4 ≠ 0#64 ∨ s.cfg.tid3TrapsZeroReg = true := by
  simp [hcrTid3Applies, isZero, or_assoc]

theorem el2TrapCondition_iff (s : State) :
    el2TrapCondition s = true ↔ s.inputs.el2Enabled = true ∧
      (s.cfg.featFGT = true ∨ s.cfg.idmmfr4 ≠ 0#64 ∨ s.cfg.tid3TrapsZeroReg = true) ∧ s.inputs.hcrEl2Tid3 = 1#1 := by
  rw [← hcrTid3Applies_iff, ← tid3El2_iff]
  simp [el2TrapCondition, and_assoc]

/-! ### How each outcome of the tests ends the read -/

theorem exec_returns_register_of_value {t : Fin 32} {s : State} (h : accessOutcome s = .value) :
    ∃ s', exec (.mrsIdAa64mmfr4El1 t) s = .next s' ∧ ∀ ht : t.val < 31, s'.x[t.val] = s.cfg.idmmfr4 :=
  ⟨_, exec_of_value h, fun ht => writeX_x_self t _ s ht⟩

theorem endsUndefined_of_undefined {t : Fin 32} {s : State} (h : accessOutcome s = .undefined) :
    EndsUndefined (.mrsIdAa64mmfr4El1 t) s :=
  ⟨_, _, exec_of_undefined h⟩

/-- 60_exceptions.md R100: every trap has the one code. -/
theorem endsInTrap_of_trap {t : Fin 32} {s : State} {target : ExceptionLevel} (h : accessOutcome s = .trap target) :
    EndsInTrap (.mrsIdAa64mmfr4El1 t) s target 0x18 :=
  ⟨_, _, exec_of_trap h⟩

theorem completes_iff (t : Fin 32) (s : State) : Completes (.mrsIdAa64mmfr4El1 t) s ↔ accessOutcome s = .value := by
  constructor
  · rintro ⟨s', hread⟩
    obtain ⟨hvalue, -⟩ := exec_next_cases hread
    exact hvalue
  · exact fun hvalue => ⟨_, exec_of_value hvalue⟩

/-! ### EL3 -/

/-- Settles O1: at EL3 there is no test. -/
theorem el3ReadAlwaysReturnsTheRegister : Obligations.El3ReadAlwaysReturnsTheRegister :=
  fun _ s haa64 hel => exec_returns_register_of_value (accessOutcome_el3 s haa64 hel)

/-! ### EL0 -/

theorem accessFromEl0_noIdst {s : State} (hidst : s.cfg.featIDST = false) : accessFromEl0 s = .undefined := by
  simp [accessFromEl0, hidst]

theorem accessFromEl0_toEl2 {s : State} (hidst : s.cfg.featIDST = true) (hel2 : s.inputs.el2Enabled = true)
    (htge : tge s = true) : accessFromEl0 s = .trap .el2 := by
  simp [accessFromEl0, hidst, hel2, htge]

theorem accessFromEl0_toEl1 {s : State} (hidst : s.cfg.featIDST = true)
    (hnot : ¬ (s.inputs.el2Enabled = true ∧ tge s = true)) : accessFromEl0 s = .trap .el1 := by
  simp [accessFromEl0, hidst, hnot]

/-- 40_mrs_id_aa64mmfr4_el1.md R82: no branch of the access from EL0 returns the value. -/
theorem accessFromEl0_ne_value (s : State) : accessFromEl0 s ≠ .value := by
  unfold accessFromEl0
  split
  · split <;> nofun
  · nofun

/-- The same of all the tests, FEAT_AA64 included, so that it needs no launch premise. -/
theorem accessOutcome_ne_value_of_el0 {s : State} (hel : s.el = .el0) : accessOutcome s ≠ .value := by
  cases haa64 : s.cfg.featAA64 with
  | false => simp [accessOutcome_noAa64 s haa64]
  | true =>
    rw [accessOutcome_el0 s haa64 hel]
    exact accessFromEl0_ne_value s

/-- Settles O2: one case of the access from EL0 for each clause. -/
theorem el0ReadTrapsOrIsUndefined : Obligations.El0ReadTrapsOrIsUndefined := by
  intro t s haa64 hel
  have hout : accessOutcome s = accessFromEl0 s := accessOutcome_el0 s haa64 hel
  refine ⟨?noValue, ?toEl2, ?toEl1, ?noIdst⟩
  case noValue =>
    rw [completes_iff]
    exact accessOutcome_ne_value_of_el0 hel
  case toEl2 =>
    intro hidst hel2 htge
    exact endsInTrap_of_trap (hout.trans (accessFromEl0_toEl2 hidst hel2 ((tge_iff s).2 htge)))
  case toEl1 =>
    intro hidst hor
    have hnot : ¬ (s.inputs.el2Enabled = true ∧ tge s = true) := by
      rw [tge_iff]
      rcases hor with hel2 | htge
      · simp [hel2]
      · simp [htge]
    exact endsInTrap_of_trap (hout.trans (accessFromEl0_toEl1 hidst hnot))
  case noIdst =>
    intro hidst
    exact endsUndefined_of_undefined (hout.trans (accessFromEl0_noIdst hidst))

/-- Settles O22: a step that answers a next state ran a read that returned the value, and at EL0 none does. -/
theorem noStepCompletesAtEl0 : Obligations.NoStepCompletesAtEl0 := by
  intro s s' hel hstep
  obtain ⟨t, -, hvalue, -⟩ := step_next_cases hstep
  exact accessOutcome_ne_value_of_el0 hel hvalue

/-! ### EL1 and EL2 -/

/-- The tests that stand last at EL1 (40_mrs_id_aa64mmfr4_el1.md R85, R86) and at EL2 (R88, R89) alike: what the read ends in
where no earlier test fired. -/
theorem read_follows_el3_trap_tests {t : Fin 32} {s : State}
    (h : accessOutcome s =
      if tid3El3 s = true then if s.inputs.el3SddUndef = true then .undefined else .trap .el3 else .value) :
    if tid3El3 s = true then
      if s.inputs.el3SddUndef = true then EndsUndefined (.mrsIdAa64mmfr4El1 t) s
      else EndsInTrap (.mrsIdAa64mmfr4El1 t) s .el3 0x18
    else
      ∃ s', exec (.mrsIdAa64mmfr4El1 t) s = .next s' ∧ ∀ ht : t.val < 31, s'.x[t.val] = s.cfg.idmmfr4 := by
  split_ifs at h ⊢
  · exact endsUndefined_of_undefined h
  · exact endsInTrap_of_trap h
  · exact exec_returns_register_of_value h

/-- Settles O3: the tests of R83 and R84 in their order, then those that EL1 shares with EL2. -/
theorem el1ReadFollowsItsFourTests : Obligations.El1ReadFollowsItsFourTests := by
  intro t s haa64 hel
  simp only [← tid3El3_iff, ← el2TrapCondition_iff]
  have hout : accessOutcome s = accessFromEl1 s := accessOutcome_el1 s haa64 hel
  split
  next hpriority => exact endsUndefined_of_undefined (hout.trans (by simp [accessFromEl1, hpriority]))
  next hpriority =>
    split
    next hel2 => exact endsInTrap_of_trap (hout.trans (by simp [accessFromEl1, hpriority, hel2]))
    next hel2 => exact read_follows_el3_trap_tests (hout.trans (by simp [accessFromEl1, hpriority, hel2]))

/-- Settles O4: the test of R87, then those that EL2 shares with EL1. -/
theorem el2ReadFollowsItsThreeTests : Obligations.El2ReadFollowsItsThreeTests := by
  intro t s haa64 hel
  simp only [← tid3El3_iff]
  have hout : accessOutcome s = accessFromEl2 s := accessOutcome_el2 s haa64 hel
  split
  next hpriority => exact endsUndefined_of_undefined (hout.trans (by simp [accessFromEl2, hpriority]))
  next hpriority => exact read_follows_el3_trap_tests (hout.trans (by simp [accessFromEl2, hpriority]))

end Sys2Proof.Machine
end

section
/-! Proofs of the family other: the decoder and the encoder. What a word decodes to is said once, by the encoding
(`decodeWord_eq_ok_iff`); every statement about words that decode cites it. -/

namespace Sys2Proof

/-- The two directions of the encoding at once: the word of an instruction, and no other, decodes to it (30_encoding.md R77). -/
theorem decodeWord_eq_ok_iff (w : InsnWord) (i : Instr) : decodeWord w = .ok i ↔ w = encode i := by
  obtain ⟨t⟩ := i
  constructor
  · intro h
    have hfields : fieldsOfWord w = ⟨mrsFixedBits, 1#1, idMmfr4Key, BitVec.ofFin t⟩ := by
      simp only [decodeWord] at h
      split_ifs at h with hfixed hkey hl
      obtain rfl : (fieldsOfWord w).rt.toFin = t := by simpa using h
      rw [← hfixed, ← hl, ← hkey]
    calc w = wordOfFields (fieldsOfWord w) := (wordOfFields_fieldsOfWord w).symm
      _ = encode (.mrsIdAa64mmfr4El1 t) := by rw [hfields, encode]
  · rintro rfl
    simp [decodeWord, encode, fieldsOfWord_wordOfFields]

theorem decodeWord_encode (i : Instr) : decodeWord (encode i) = .ok i :=
  (decodeWord_eq_ok_iff _ i).2 rfl

/-- Settles O23: the instruction's word decodes to it, and the bytes of a word decode as the word does. -/
theorem decodeOfEncodeIsTheInstruction : Obligations.DecodeOfEncodeIsTheInstruction :=
  fun e i rest _ => decodeBytes_of_ok e (encode i) rest i (decodeWord_encode i)

/-- Settles O24: the other direction of the encoding. -/
theorem decodedWordIsTheEncoding : Obligations.DecodedWordIsTheEncoding :=
  fun w i h => ((decodeWord_eq_ok_iff w i).1 h).symm

/-! ### The match and the mask of the opcode table -/

/-- The low five bits of the word are Rt (30_encoding.md R71). -/
theorem encode_toNat_mod (t : Fin 32) : (encode (.mrsIdAa64mmfr4El1 t)).toNat % 32 = t.val := by
  revert t
  decide

/-- A word is determined by its bits under the mask and its low five bits. -/
theorem eq_of_mask_eq_of_mod_eq {v w : InsnWord} (hmask : v &&& 0xFFFFFFE0#32 = w &&& 0xFFFFFFE0#32)
    (hmod : v.toNat % 32 = w.toNat % 32) : v = w := by
  have hlow (u : InsnWord) : (u &&& 0x1F#32).toNat = u.toNat % 32 := by
    simpa using Nat.and_two_pow_sub_one_eq_mod u.toNat 5
  have hparts (u : InsnWord) : u &&& 0xFFFFFFE0#32 ||| u &&& 0x1F#32 = u := by
    rw [← BitVec.and_or_distrib_left]
    exact BitVec.and_allOnes
  have hlowEq : v &&& 0x1F#32 = w &&& 0x1F#32 := BitVec.eq_of_toNat_eq (by rw [hlow, hlow, hmod])
  rw [← hparts v, ← hparts w, hmask, hlowEq]

/-- Settles O25: the encoding has the table's match and its destination's low bits, and no other word does. -/
theorem wordDecodesExactlyOnMatchAndMask : Obligations.WordDecodesExactlyOnMatchAndMask := by
  intro w t
  obtain ⟨-, hmatch⟩ := Laws.EncodingMatchesTable.mrsIdAa64mmfr4El1 t
  rw [decodeWord_eq_ok_iff]
  constructor
  · rintro rfl
    exact ⟨hmatch, (encode_toNat_mod t).symm⟩
  · rintro ⟨hmask, ht⟩
    exact eq_of_mask_eq_of_mod_eq (hmask.trans hmatch.symm) (by rw [← ht, encode_toNat_mod])

/-- A word off the table's row decodes to nothing (30_encoding.md R75). -/
theorem decodeWord_error_of_mask_ne {w : InsnWord} (hmask : w &&& 0xFFFFFFE0#32 ≠ 0xD5380780#32) :
    ∃ why, decodeWord w = .error why := by
  cases hdecode : decodeWord w with
  | error why => exact ⟨why, rfl⟩
  | ok i =>
    obtain ⟨t⟩ := i
    exact absurd ((wordDecodesExactlyOnMatchAndMask w t).1 hdecode).1 hmask

/-! ### The write form and the sample words -/

/-- The fields of the read form with L = 0 are refused as the write form (30_encoding.md R75). -/
theorem decodeWord_writeForm (t : Fin 32) :
    decodeWord (wordOfFields ⟨mrsFixedBits, 0#1, idMmfr4Key, BitVec.ofFin t⟩) = .error (.writeForm t) := by
  simp [decodeWord, fieldsOfWord_wordOfFields]

theorem wordOfFields_writeForm (t : Fin 32) :
    wordOfFields ⟨mrsFixedBits, 0#1, idMmfr4Key, BitVec.ofFin t⟩ = 0xD5180780#32 + BitVec.ofNat 32 t.val := by
  revert t
  decide

/-- Settles O26: the word is the one with the read form's fields and L = 0. -/
theorem writeFormIsRefused : Obligations.WriteFormIsRefused := by
  intro t
  rw [← wordOfFields_writeForm, decodeWord_writeForm]

/-- Cutting a word's number to 32 bits leaves the word. -/
theorem ofNat_toNat_mod (w : InsnWord) : BitVec.ofNat 32 (w.toNat % 2 ^ 32) = w := by
  rw [Nat.mod_eq_of_lt w.isLt, BitVec.ofNat_toNat, BitVec.setWidth_eq]

theorem decodeTableWord_encode (i : Instr) : decodeTableWord 32 (encode i).toNat = some i := by
  have hbytes := decodeBytes_of_ok .little (encode i) [] i (decodeWord_encode i)
  rw [List.append_nil] at hbytes
  rw [decodeTableWord, ofNat_toNat_mod, hbytes]

/-- Settles O27: the first four words are encodings; the fifth has another key. -/
theorem sampleWordsDecode : Obligations.SampleWordsDecode :=
  ⟨decodeTableWord_encode (.mrsIdAa64mmfr4El1 0), decodeTableWord_encode (.mrsIdAa64mmfr4El1 5),
    decodeTableWord_encode (.mrsIdAa64mmfr4El1 30), decodeTableWord_encode (.mrsIdAa64mmfr4El1 31), by decide⟩

end Sys2Proof
end

section
/-! Proofs of the family other: what a step answers where the fetch finds an instruction, another word or no text, and the launch
premises that a step keeps. -/

namespace Sys2Proof.Machine

open Sys2Proof

/-! ### The fetch -/

/-- Bytes at an aligned pc that decode to an instruction are what the step fetches. -/
theorem fetch_of_decodeBytes {s : State} {i : Instr} {bs rest : List Byte} (hpc : s.pc.toNat % 4 = 0)
    (hread : readBytes s.text s.pc 4 = some bs) (hdecode : decodeBytes s.cfg.insnEndianness bs = .ok (i, rest)) :
    fetch s = .instruction i :=
  (fetch_instruction_iff s i).2 ⟨(pcAligned_iff s).2 hpc, bs, rest, hread, hdecode⟩

/-- Settles O17: the step finishes what the fetched instruction answers; the match on the schedule is `takeNextInputs`. -/
theorem stepRunsTheDecodedInstruction : Obligations.StepRunsTheDecodedInstruction := by
  intro s i bs rest hpc hread hdecode _
  rw [step_of_instruction (fetch_of_decodeBytes hpc hread hdecode)]
  cases exec i s with
  | next s' => rfl
  | fault f => rfl
  | refused r => rfl

/-- The bytes of a word written at an address are the bytes read there, in either byte order. -/
theorem readBytes_writeBytes_bytesOfWord (m : Memory) (a : Word) (e : Endianness) (w : InsnWord) :
    readBytes (writeBytes m a (bytesOfWord e w)) a 4 = some (bytesOfWord e w) := by
  cases e with
  | little => exact readBytes_writeBytes_four m a _ _ _ _
  | big => exact readBytes_writeBytes_four m a _ _ _ _

theorem fetch_withFetchWord_encode {s : State} (i : Instr) (hpc : s.pc.toNat % 4 = 0) :
    fetch (s.withFetchWord 32 (encode i).toNat) = .instruction i := by
  refine fetch_of_decodeBytes (bs := bytesOfWord s.cfg.insnEndianness (encode i)) (rest := []) hpc ?_ ?_
  · rw [withFetchWord_text, ofNat_toNat_mod]
    exact readBytes_writeBytes_bytesOfWord s.text s.pc s.cfg.insnEndianness (encode i)
  · simpa using decodeBytes_of_ok s.cfg.insnEndianness (encode i) [] i (decodeWord_encode i)

/-- Settles O18: the step fetches the placed instruction. -/
theorem stepRunsThePlacedInstruction : Obligations.StepRunsThePlacedInstruction := by
  intro s i hpc
  rw [step_of_instruction (fetch_withFetchWord_encode i hpc)]
  cases exec i (s.withFetchWord 32 (encode i).toNat) with
  | next s' => rfl
  | fault f => rfl
  | refused r => rfl

/-! ### Where the step stops -/

/-- Settles O19: alignment is tested first. -/
theorem misalignedPcHasNoStep : Obligations.MisalignedPcHasNoStep := by
  intro s hpc
  have hnot : ¬ pcAligned s = true := by rwa [pcAligned_iff]
  exact step_of_misaligned (by simpa using hnot)

/-- One missing byte and none of the bytes is read. -/
theorem readBytes_eq_none_of_missing {m : Memory} {n k : Nat} {a : Word} (hk : k < n)
    (hmissing : readByte m (a + BitVec.ofNat 64 k).toNat = none) : readBytes m a n = none := by
  induction n generalizing a k with
  | zero => exact absurd hk (Nat.not_lt_zero k)
  | succ n ih =>
    rw [readBytes]
    cases k with
    | zero =>
      have hfirst : readByte m a.toNat = none := by simpa using hmissing
      simp [hfirst]
    | succ k =>
      have hnext : a + BitVec.ofNat 64 (k + 1) = a + 1#64 + BitVec.ofNat 64 k := by
        rw [BitVec.add_assoc, ← BitVec.ofNat_add, Nat.add_comm 1]
      have hrest : readBytes m (a + 1#64) n = none := ih (Nat.lt_of_succ_lt_succ hk) (by rwa [← hnext])
      simp [hrest]

/-- The four bytes at an aligned address do not wrap. -/
theorem toNat_add_of_aligned {a : Word} {k : Nat} (ha : a.toNat % 4 = 0) (hk : k < 4) :
    (a + BitVec.ofNat 64 k).toNat = a.toNat + k := by
  rw [BitVec.toNat_add, BitVec.toNat_ofNat]
  omega

/-- Settles O20: the missing byte is one of those the fetch reads. -/
theorem stepOutsideTheProgramTextStops : Obligations.StepOutsideTheProgramTextStops := by
  intro s k hpc hk hmissing
  refine step_of_noText ((pcAligned_iff s).2 hpc) (readBytes_eq_none_of_missing hk ?_)
  rwa [toNat_add_of_aligned hpc hk]

/-- Settles O21: what the decoder refuses, the step refuses for the same reason. -/
theorem otherWordsAreRefusedNotUndefined : Obligations.OtherWordsAreRefusedNotUndefined := by
  intro s w hpc hread hmask
  obtain ⟨why, hdecode⟩ := decodeWord_error_of_mask_ne hmask
  have hbytes := decodeBytes_of_error s.cfg.insnEndianness w [] why hdecode
  rw [List.append_nil] at hbytes
  exact ⟨why, hdecode, step_of_undecoded ((pcAligned_iff s).2 hpc) hread hbytes⟩

/-! ### The launch premises -/

/-- Adding 4 keeps a multiple of 4, also where it wraps (10_state.md R44). -/
theorem toNat_add_four_mod_four (a : Word) : (a + 4#64).toNat % 4 = a.toNat % 4 := by
  rw [BitVec.toNat_add, BitVec.toNat_ofNat]
  omega

/-- Settles O40: the configuration, the level and the text are unchanged, and the pc moves by 4. -/
theorem stepKeepsTheLaunchInvariant : Obligations.StepKeepsTheLaunchInvariant := by
  intro s s' hs hstep
  obtain ⟨hcfg, hel, -, htext, -⟩ := noStepChangesLevelRegisterOrText s s' hstep
  constructor
  case configWellFormed => rw [hcfg, hs.configWellFormed]
  case pcMultipleOf4 => rw [step_next_pc hstep, toNat_add_four_mod_four, hs.pcMultipleOf4]
  case el3Implemented => rw [hcfg, hel]; exact hs.el3Implemented
  case textCanonical => rw [htext]; exact hs.textCanonical

/-- Settles O41: the configuration is the implementation's, and the rest is as `State.reset` writes it. -/
theorem resetMeetsTheLaunchInvariant : Obligations.ResetMeetsTheLaunchInvariant where
  configWellFormed := by rw [reset_cfg, Config.implementation_wellFormed]
  pcMultipleOf4 := rfl
  el3Implemented := fun _ => rfl
  textCanonical := by simp [Memory.wf, State.reset]

end Sys2Proof.Machine
end

section
/-! Proofs of the family other: the access. The condition of a completing read and the target of a trap are each said once for the
tests of every level; where two states are compared, the outcome is read off the table of 40_mrs_id_aa64mmfr4_el1.md R93. -/

namespace Sys2Proof.Machine

open Sys2Proof

/-! ### The outcomes of each level's tests -/

theorem accessFromEl0_cases (s : State) :
    accessFromEl0 s = .undefined ∨ accessFromEl0 s = .trap .el1 ∨ accessFromEl0 s = .trap .el2 := by
  unfold accessFromEl0
  split_ifs <;> simp

theorem accessFromEl1_cases (s : State) :
    accessFromEl1 s = .undefined ∨ accessFromEl1 s = .trap .el2 ∨ accessFromEl1 s = .trap .el3 ∨ accessFromEl1 s = .value := by
  unfold accessFromEl1
  split_ifs <;> simp

theorem accessFromEl2_cases (s : State) :
    accessFromEl2 s = .undefined ∨ accessFromEl2 s = .trap .el3 ∨ accessFromEl2 s = .value := by
  unfold accessFromEl2
  split_ifs <;> simp

/-- 60_exceptions.md R108: where a trap can go, from the level it is taken from. -/
theorem el_target_of_trap {s : State} {target : ExceptionLevel} (h : accessOutcome s = .trap target) :
    (s.el = .el0 ∧ (target = .el1 ∨ target = .el2)) ∨ (s.el = .el1 ∧ (target = .el2 ∨ target = .el3)) ∨
      (s.el = .el2 ∧ target = .el3) := by
  cases haa64 : s.cfg.featAA64 with
  | false => simp [accessOutcome_noAa64 s haa64] at h
  | true =>
    cases hel : s.el with
    | el0 =>
      rw [accessOutcome_el0 s haa64 hel] at h
      have hcases := accessFromEl0_cases s
      simpa [h] using hcases
    | el1 =>
      rw [accessOutcome_el1 s haa64 hel] at h
      have hcases := accessFromEl1_cases s
      simpa [h] using hcases
    | el2 =>
      rw [accessOutcome_el2 s haa64 hel] at h
      have hcases := accessFromEl2_cases s
      simpa [h] using hcases
    | el3 => simp [accessOutcome_el3 s haa64 hel] at h

/-! ### How each outcome shows in the end of the read -/

theorem endsUndefined_iff (t : Fin 32) (s : State) :
    EndsUndefined (.mrsIdAa64mmfr4El1 t) s ↔ accessOutcome s = .undefined := by
  refine ⟨?_, endsUndefined_of_undefined⟩
  rintro ⟨pc, u, hread⟩
  obtain ⟨-, hexec⟩ | ⟨hout, -⟩ | ⟨target, -, hexec⟩ := exec_cases t s
  · simp [hexec] at hread
  · exact hout
  · simp [hexec] at hread

/-- A fault of the trap kind is the trap the tests answer (60_exceptions.md R100, R102). -/
theorem trap_of_exec_fault {t u : Fin 32} {s : State} {target : ExceptionLevel} {code : Nat} {pc : Word}
    (h : exec (.mrsIdAa64mmfr4El1 t) s = .fault (.systemAccessTrap target code pc u)) :
    accessOutcome s = .trap target ∧ code = 0x18 := by
  obtain ⟨-, hexec⟩ | ⟨-, hexec⟩ | ⟨target', hout, hexec⟩ := exec_cases t s
  · simp [hexec] at h
  · simp [hexec] at h
  · rw [hexec] at h
    cases h
    exact ⟨hout, rfl⟩

theorem endsInTrap_iff (t : Fin 32) (s : State) (target : ExceptionLevel) :
    EndsInTrap (.mrsIdAa64mmfr4El1 t) s target 0x18 ↔ accessOutcome s = .trap target := by
  refine ⟨?_, endsInTrap_of_trap⟩
  rintro ⟨pc, u, hread⟩
  exact (trap_of_exec_fault hread).1

/-- Two reads whose tests answer alike end alike, whatever their destinations are. -/
theorem ends_alike_of_accessOutcome_eq {s r : State} (h : accessOutcome s = accessOutcome r) (t u : Fin 32) :
    (Completes (.mrsIdAa64mmfr4El1 t) s ↔ Completes (.mrsIdAa64mmfr4El1 u) r) ∧
    (EndsUndefined (.mrsIdAa64mmfr4El1 t) s ↔ EndsUndefined (.mrsIdAa64mmfr4El1 u) r) ∧
    ∀ target, EndsInTrap (.mrsIdAa64mmfr4El1 t) s target 0x18 ↔ EndsInTrap (.mrsIdAa64mmfr4El1 u) r target 0x18 := by
  simp only [completes_iff, endsUndefined_iff, endsInTrap_iff, h, implies_true, and_self]

/-- Settles O5: FEAT_AA64 is tested first. -/
theorem withoutAa64EveryReadIsUndefined : Obligations.WithoutAa64EveryReadIsUndefined :=
  fun _ s haa64 => endsUndefined_of_undefined (accessOutcome_noAa64 s haa64)

/-! ### The completing read -/

/-- A control bit that is not 1 is 0. -/
theorem bit_ne_one_iff (b : Bit) : ¬ b = 1#1 ↔ b = 0#1 := by
  revert b
  decide

theorem tid3El3_eq_false_iff (s : State) :
    tid3El3 s = false ↔ s.cfg.haveEL3 = false ∨ s.cfg.featIDTE3 = false ∨ s.inputs.scrEl3Tid3 = 0#1 := by
  rw [← Bool.not_eq_true, tid3El3_iff]
  simp only [not_and_or, Bool.not_eq_true, bit_ne_one_iff]

theorem el2TrapCondition_eq_false_iff (s : State) :
    el2TrapCondition s = false ↔ s.inputs.el2Enabled = false ∨ s.inputs.hcrEl2Tid3 = 0#1 ∨
      (s.cfg.featFGT = false ∧ s.cfg.idmmfr4 = 0#64 ∧ s.cfg.tid3TrapsZeroReg = false) := by
  rw [← Bool.not_eq_true, el2TrapCondition_iff, and_comm (b := s.inputs.hcrEl2Tid3 = 1#1)]
  simp only [not_and_or, not_or, ne_eq, not_not, Bool.not_eq_true, bit_ne_one_iff]

theorem accessFromEl1_eq_value_iff (s : State) :
    accessFromEl1 s = .value ↔ tid3El3 s = false ∧ el2TrapCondition s = false := by
  cases htid3 : tid3El3 s with
  | false => simp [accessFromEl1, htid3]
  | true =>
    simp only [accessFromEl1, htid3]
    split_ifs <;> simp

theorem accessFromEl2_eq_value_iff (s : State) : accessFromEl2 s = .value ↔ tid3El3 s = false := by
  cases htid3 : tid3El3 s with
  | false => simp [accessFromEl2, htid3]
  | true =>
    simp only [accessFromEl2, htid3]
    split_ifs <;> simp

/-- 40_mrs_id_aa64mmfr4_el1.md R93: the conditions under which the read completes, over every level. -/
theorem accessOutcome_eq_value_iff (s : State) :
    accessOutcome s = .value ↔ s.cfg.featAA64 = true ∧
      (s.el = .el3 ∨
        ((s.el = .el1 ∨ s.el = .el2) ∧
          (s.cfg.haveEL3 = false ∨ s.cfg.featIDTE3 = false ∨ s.inputs.scrEl3Tid3 = 0#1) ∧
          (s.el = .el1 → s.inputs.el2Enabled = false ∨ s.inputs.hcrEl2Tid3 = 0#1 ∨
            (s.cfg.featFGT = false ∧ s.cfg.idmmfr4 = 0#64 ∧ s.cfg.tid3TrapsZeroReg = false)))) := by
  rw [← tid3El3_eq_false_iff, ← el2TrapCondition_eq_false_iff]
  cases haa64 : s.cfg.featAA64 with
  | false => simp [accessOutcome_noAa64 s haa64]
  | true =>
    cases hel : s.el with
    | el0 => simpa using accessOutcome_ne_value_of_el0 hel
    | el1 => simp [accessOutcome_el1 s haa64 hel, accessFromEl1_eq_value_iff]
    | el2 => simp [accessOutcome_el2 s haa64 hel, accessFromEl2_eq_value_iff]
    | el3 => simp [accessOutcome_el3 s haa64 hel]

/-- The next state of a completing read, field by field (10_state.md R43, R44). -/
theorem advancePc_writeX (t : Fin 32) (v : Word) (s : State) :
    advancePc (writeX t v s) =
      { s with
        x := if h : t.val < 31 then s.x.set t.val v h else s.x
        pc := s.pc + 4#64 } := by
  by_cases ht : t.val < 31
  · simp [writeX_of_lt t v s ht, ht, advancePc]
  · simp [writeX_xzr t v s ht, ht, advancePc]

/-- Settles O6: under the conditions the tests answer the value, and its next state is the one written out. -/
theorem completingReadAnswersThisState : Obligations.CompletingReadAnswersThisState := by
  intro t s haa64 hcond
  rw [exec_of_value ((accessOutcome_eq_value_iff s).2 ⟨haa64, hcond⟩), advancePc_writeX]

/-- Settles O7: the other direction of the same conditions. -/
theorem readCompletesOnlyThere : Obligations.ReadCompletesOnlyThere :=
  fun t s hcompletes => (accessOutcome_eq_value_iff s).1 ((completes_iff t s).1 hcompletes)

/-- Settles O12: only the register write touches a register, and no other field but the pc moves. -/
theorem completingReadChangesOnlyItsDestination : Obligations.CompletingReadChangesOnlyItsDestination := by
  intro t s s' hread
  obtain ⟨-, rfl⟩ := exec_next_cases hread
  refine ⟨fun u hu => ?_, by simp, by simp, by simp, by simp, by simp, by simp, by simp⟩
  rw [readX_advancePc, readX_writeX_other t u _ s hu]

/-- Settles O13: a write of number 31 is discarded, and the tests do not look at the destination. -/
theorem xzrReadDiscardsTheValueButIsStillChecked : Obligations.XzrReadDiscardsTheValueButIsStillChecked := by
  refine fun s => ⟨fun s' hread => ?_, fun t => ends_alike_of_accessOutcome_eq rfl 31 t⟩
  obtain ⟨-, rfl⟩ := exec_next_cases hread
  rw [writeX_xzr 31 _ s (by decide), advancePc]

/-! ### The total outcome function -/

/-- The procedures and the table test the same conditions in the same order (40_mrs_id_aa64mmfr4_el1.md R93). -/
theorem accessOutcome_eq_outcomeTable (s : State) : accessOutcome s = outcomeTable s.el (outcomeInputs s) := by
  cases haa64 : s.cfg.featAA64 with
  | false => simp [accessOutcome_noAa64 s haa64, outcomeTable, outcomeInputs, haa64]
  | true =>
    cases hel : s.el with
    | el0 =>
      rw [accessOutcome_el0 s haa64 hel]
      cases hidst : s.cfg.featIDST <;> simp [accessFromEl0, tge, outcomeTable, outcomeInputs, haa64, hidst]
    | el1 =>
      rw [accessOutcome_el1 s haa64 hel]
      simp [accessFromEl1, tid3El3, el2TrapCondition, hcrTid3Applies, tid3El2, outcomeTable, outcomeInputs, haa64]
    | el2 =>
      rw [accessOutcome_el2 s haa64 hel]
      simp [accessFromEl2, tid3El3, outcomeTable, outcomeInputs, haa64]
    | el3 =>
      rw [accessOutcome_el3 s haa64 hel]
      simp [outcomeTable, outcomeInputs, haa64]

/-- Settles O8: the outcome of the tests is the table's, and each outcome has its answer. -/
theorem readIsTheTotalOutcomeFunction : Obligations.ReadIsTheTotalOutcomeFunction := by
  intro t s
  rw [← accessOutcome_eq_outcomeTable]
  cases hout : accessOutcome s with
  | value => rw [exec_of_value hout, advancePc_writeX]
  | undefined => exact exec_of_undefined hout
  | trap target => exact exec_of_trap hout

/-- Settles O14: the table's inputs are the same for both states. -/
theorem outcomeIgnoresRegistersPcAndMemory : Obligations.OutcomeIgnoresRegistersPcAndMemory := by
  intro t u s r hel hinputs haa64 hidst hidte3 hfgt hhave himpdef hzero
  have hisZero : isZero s.cfg.idmmfr4 = isZero r.cfg.idmmfr4 := by
    rw [Bool.eq_iff_iff]
    simpa [isZero] using hzero
  have htable : outcomeInputs s = outcomeInputs r := by
    simp only [outcomeInputs, hinputs, haa64, hidst, hidte3, hfgt, hhave, himpdef, hisZero]
  refine ends_alike_of_accessOutcome_eq ?_ t u
  rw [accessOutcome_eq_outcomeTable, accessOutcome_eq_outcomeTable, hel, htable]

/-! ### The exceptional outcomes -/

/-- Settles O10: the five pairs of a level and a trap's target are in order. -/
theorem trapsNeverGoToALowerLevel : Obligations.TrapsNeverGoToALowerLevel := by
  intro t u s target code pc hread
  obtain ⟨hout, hcode⟩ := trap_of_exec_fault hread
  obtain ⟨hel, rfl | rfl⟩ | ⟨hel, rfl | rfl⟩ | ⟨hel, rfl⟩ := el_target_of_trap hout
  all_goals simp [hel, hcode, ExceptionLevel.rank]

/-- Settles O11: of the three answers of the MRS, two are faults and one is a next state. -/
theorem exceptionalOutcomeRecordsPcAndDestination : Obligations.ExceptionalOutcomeRecordsPcAndDestination := by
  intro t s
  obtain ⟨-, hexec⟩ | ⟨-, hexec⟩ | ⟨target, -, hexec⟩ := exec_cases t s
  · simp [hexec]
  · simp [hexec, eq_comm]
  · simp [hexec, systemAccessTrapCode]

/-- Settles O15: the first test of EL1 is the priority's and the second the EL2 trap's, which both stand before the EL3 trap. -/
theorem el1TrapToEl2OutranksTrapToEl3 : Obligations.El1TrapToEl2OutranksTrapToEl3 := by
  intro t s haa64 hel hhave hidte3 hscr hel2 hnonzero htid3
  have hout : accessOutcome s = accessFromEl1 s := accessOutcome_el1 s haa64 hel
  have hel3Trap : tid3El3 s = true := (tid3El3_iff s).2 ⟨hhave, hidte3, hscr⟩
  have hel2Trap : el2TrapCondition s = true := (el2TrapCondition_iff s).2 ⟨hel2, .inr (.inl hnonzero), htid3⟩
  constructor
  · intro hpriority
    exact endsInTrap_of_trap (hout.trans (by simp [accessFromEl1, hpriority, hel2Trap]))
  · intro hpriority
    exact endsUndefined_of_undefined (hout.trans (by simp [accessFromEl1, hpriority, hel3Trap]))

/-! ### Each outcome arises -/

/-- The formerly reserved register on a PE whose features let every trap of the access exist. -/
def trapConfig : Config := { Config.formerlyReserved with featIDST := true, featIDTE3 := true, featFGT := true }

/-- The state after reset, but at the given level with the given configuration and state inputs. -/
def readingState (cfg : Config) (el : ExceptionLevel) (inputs : StepInputs) : State :=
  { State.reset with cfg := cfg, el := el, inputs := inputs }

/-- State inputs under which a read from a lower level traps to the given one: those of reset, with the control bits that send it
there. -/
def trapInputs : ExceptionLevel → StepInputs
  | .el2 => { StepInputs.reset with el2Enabled := true, hcrEl2Tge := 1#1, hcrEl2Tid3 := 1#1 }
  | .el3 => { StepInputs.reset with scrEl3Tid3 := 1#1 }
  | .el0 => StepInputs.reset
  | .el1 => StepInputs.reset

/-- State inputs under which a read from EL1 or EL2 is UNDEFINED, where FEAT_IDTE3 is implemented. -/
def undefinedInputs : StepInputs := { StepInputs.reset with scrEl3Tid3 := 1#1, el3SddUndefPriority := true }

/-- Without FEAT_IDST an EL0 read is UNDEFINED too. -/
theorem undefined_arises {el : ExceptionLevel} (hel : el ≠ .el3) :
    accessOutcome (readingState { trapConfig with featIDST := false } el undefinedInputs) = .undefined := by
  cases el with
  | el0 => rfl
  | el1 => rfl
  | el2 => rfl
  | el3 => exact absurd rfl hel

theorem trap_arises {el target : ExceptionLevel}
    (h : (el = .el0 ∧ target = .el1) ∨ (el = .el0 ∧ target = .el2) ∨ (el = .el1 ∧ target = .el2) ∨
      (el = .el1 ∧ target = .el3) ∨ (el = .el2 ∧ target = .el3)) :
    accessOutcome (readingState trapConfig el (trapInputs target)) = .trap target := by
  obtain ⟨rfl, rfl⟩ | ⟨rfl, rfl⟩ | ⟨rfl, rfl⟩ | ⟨rfl, rfl⟩ | ⟨rfl, rfl⟩ := h <;> rfl

theorem value_arises {el : ExceptionLevel} (hel : el ≠ .el0) :
    accessOutcome (readingState Config.formerlyReserved el StepInputs.reset) = .value := by
  cases el with
  | el0 => exact absurd rfl hel
  | el1 => rfl
  | el2 => rfl
  | el3 => rfl

/-- Settles O9: the cases of each level's tests, and for each outcome a state that has it. -/
theorem outcomesOfEachLevel : Obligations.OutcomesOfEachLevel := by
  refine ⟨fun t s haa64 => ?_,
    fun t el hel => ⟨_, rfl, rfl, endsUndefined_of_undefined (undefined_arises hel)⟩,
    fun t el target h => ⟨_, rfl, rfl, endsInTrap_of_trap (trap_arises h)⟩,
    fun t el hel => ⟨_, rfl, rfl, (completes_iff t _).2 (value_arises hel)⟩⟩
  simp only [completes_iff, endsUndefined_iff, endsInTrap_iff]
  cases hel : s.el with
  | el0 =>
    rw [accessOutcome_el0 s haa64 hel]
    exact accessFromEl0_cases s
  | el1 =>
    rw [accessOutcome_el1 s haa64 hel]
    exact accessFromEl1_cases s
  | el2 =>
    rw [accessOutcome_el2 s haa64 hel]
    exact accessFromEl2_cases s
  | el3 => exact accessOutcome_el3 s haa64 hel

end Sys2Proof.Machine
end

section
/-! Proofs of the family other: the value of the register and the checks of a configuration. The register is written as one
concatenation of its thirteen ranges (`idValueOfFields_eq_append`), from which slicing and packing follow. -/

namespace Sys2Proof

/-! ### The layout -/

/-- Settles O28: the three facts are about the one table, bit by bit and field by field. -/
theorem registerRangesTileAllBits : Obligations.RegisterRangesTileAllBits := by
  refine ⟨rfl, by decide, fun f => ?_⟩
  cases f <;> decide

/-- A field put at its place, sliced there, is the field. -/
theorem extractLsb'_shiftLeft_same (x : BitVec 4) {k : Nat} (hk : k ≤ 60) :
    (x.setWidth 64 <<< k).extractLsb' k 4 = x := by
  ext i hi
  have hlt : k + i < 64 := by omega
  simp [hlt, BitVec.getLsbD_eq_getElem hi]

/-- A field put at its place shows in no range above or below it. -/
theorem extractLsb'_shiftLeft_disjoint (x : BitVec 4) {k lo n : Nat} (h : k + 4 ≤ lo ∨ lo + n ≤ k) :
    (x.setWidth 64 <<< k).extractLsb' lo n = 0#n := by
  ext i hi
  simp only [BitVec.getElem_extractLsb', BitVec.getLsbD_shiftLeft, BitVec.getLsbD_setWidth, BitVec.getElem_zero]
  rcases h with hbelow | habove
  · have hpast : x.getLsbD (lo + i - k) = false := BitVec.getLsbD_of_ge x _ (by omega)
    simp [hpast]
  · have hbefore : lo + i < k := by omega
    simp [hbefore]

/-- The lowest field is put at place 0. -/
theorem shiftLeft_zero_eq (x : BitVec 4) : x.setWidth 64 = x.setWidth 64 <<< 0 := by simp

theorem idFieldsOfValue_idValueOfFields (f : IdFields) : idFieldsOfValue (idValueOfFields f) = f := by
  rw [idValueOfFields, shiftLeft_zero_eq f.pops]
  simp only [idFieldsOfValue, idField, IdField.lo, BitVec.extractLsb'_or]
  simp (disch := decide) only [extractLsb'_shiftLeft_same, extractLsb'_shiftLeft_disjoint, BitVec.or_zero, BitVec.zero_or]

theorem res0RangesZero_iff (v : Word) :
    res0RangesZero v = true ↔ v.extractLsb' 48 16 = 0#16 ∧ v.extractLsb' 40 4 = 0#4 ∧ v.extractLsb' 32 4 = 0#4 := by
  simp [res0RangesZero, and_assoc]

theorem res0RangesZero_idValueOfFields (f : IdFields) : res0RangesZero (idValueOfFields f) = true := by
  rw [res0RangesZero_iff, idValueOfFields, shiftLeft_zero_eq f.pops]
  simp only [BitVec.extractLsb'_or]
  simp (disch := decide) only [extractLsb'_shiftLeft_disjoint, BitVec.or_zero, and_self]

/-- The register is its thirteen ranges side by side: no bit is left out (10_state.md R11). -/
theorem ranges_append_eq_value (v : Word) :
    v.extractLsb' 48 16 ++ idField .srmask v ++ v.extractLsb' 40 4 ++ idField .e3dse v ++ v.extractLsb' 32 4 ++
      idField .rmegdi v ++ idField .e2h0 v ++ idField .nvFrac v ++ idField .fgwte3 v ++ idField .hacdbs v ++
      idField .asid2 v ++ idField .eiesb v ++ idField .pops v = v := by
  simp only [idField, IdField.lo]
  iterate 12 rw [BitVec.extractLsb'_append_extractLsb'_eq_extractLsb' (by rfl)]
  exact BitVec.extractLsb'_eq_self

/-- Two values with the same fields, their reserved ranges zero, are one. -/
theorem eq_of_idFieldsOfValue_eq {v w : Word} (hv : res0RangesZero v = true) (hw : res0RangesZero w = true)
    (h : idFieldsOfValue v = idFieldsOfValue w) : v = w := by
  obtain ⟨hv48, hv40, hv32⟩ := (res0RangesZero_iff v).1 hv
  obtain ⟨hw48, hw40, hw32⟩ := (res0RangesZero_iff w).1 hw
  simp only [idFieldsOfValue, IdFields.mk.injEq] at h
  rw [← ranges_append_eq_value v, ← ranges_append_eq_value w]
  simp only [hv48, hv40, hv32, hw48, hw40, hw32, h]

theorem idValueOfFields_idFieldsOfValue {v : Word} (hres0 : res0RangesZero v = true) :
    idValueOfFields (idFieldsOfValue v) = v :=
  eq_of_idFieldsOfValue_eq (res0RangesZero_idValueOfFields _) hres0 (idFieldsOfValue_idValueOfFields _)

/-- Settles O29: slicing undoes packing, and packing undoes slicing where nothing is reserved. -/
theorem registerValueIsItsTenFields : Obligations.RegisterValueIsItsTenFields :=
  ⟨fun f => ⟨idFieldsOfValue_idValueOfFields f, res0RangesZero_idValueOfFields f⟩,
    fun _ hres0 => idValueOfFields_idFieldsOfValue hres0⟩

end Sys2Proof
end

section
/-! Proofs of the family other: the checks of a configuration, counted over all register values and written as arithmetic on the
register's number. -/

namespace Sys2Proof

/-! ### How many values pass the value checks -/

theorem fieldListed_iff (f : IdField) (v : Word) : fieldListed f v = true ↔ idField f v ∈ f.listed := by
  simp [fieldListed]

theorem IdField.mem_all (f : IdField) : f ∈ IdField.all := by
  cases f <;> decide

theorem passesValueChecks_iff (v : Word) :
    passesValueChecks v = true ↔ res0RangesZero v = true ∧ ∀ f, idField f v ∈ f.listed := by
  simp [passesValueChecks, IdField.mem_all, fieldListed_iff]

theorem IdField.listed_nodup (f : IdField) : f.listed.Nodup := by
  cases f <;> decide

/-- Every choice of a listed value for each of the ten fields (10_state.md R42). -/
def listedFields : List IdFields :=
  (IdField.srmask.listed ×ˢ IdField.e3dse.listed ×ˢ IdField.rmegdi.listed ×ˢ IdField.e2h0.listed ×ˢ IdField.nvFrac.listed ×ˢ
    IdField.fgwte3.listed ×ˢ IdField.hacdbs.listed ×ˢ IdField.asid2.listed ×ˢ IdField.eiesb.listed ×ˢ IdField.pops.listed).map
    fun (srmask, e3dse, rmegdi, e2h0, nvFrac, fgwte3, hacdbs, asid2, eiesb, pops) =>
      ⟨srmask, e3dse, rmegdi, e2h0, nvFrac, fgwte3, hacdbs, asid2, eiesb, pops⟩

theorem listedFields_length : listedFields.length = 4608 := by
  simp only [listedFields, List.length_map, List.length_product]
  rfl

theorem listedFields_nodup : listedFields.Nodup := by
  refine List.Nodup.map ?injective ?product
  case injective =>
    rintro ⟨⟩ ⟨⟩ h
    simpa [Prod.ext_iff] using h
  case product =>
    iterate 9 refine List.Nodup.product (IdField.listed_nodup _) ?_
    exact IdField.listed_nodup _

theorem mem_listedFields_iff (f : IdFields) :
    f ∈ listedFields ↔
      f.srmask ∈ IdField.srmask.listed ∧ f.e3dse ∈ IdField.e3dse.listed ∧ f.rmegdi ∈ IdField.rmegdi.listed ∧
      f.e2h0 ∈ IdField.e2h0.listed ∧ f.nvFrac ∈ IdField.nvFrac.listed ∧ f.fgwte3 ∈ IdField.fgwte3.listed ∧
      f.hacdbs ∈ IdField.hacdbs.listed ∧ f.asid2 ∈ IdField.asid2.listed ∧ f.eiesb ∈ IdField.eiesb.listed ∧
      f.pops ∈ IdField.pops.listed := by
  obtain ⟨srmask, e3dse, rmegdi, e2h0, nvFrac, fgwte3, hacdbs, asid2, eiesb, pops⟩ := f
  simp [listedFields]

theorem idFieldsOfValue_mem_listedFields_iff (v : Word) :
    idFieldsOfValue v ∈ listedFields ↔ ∀ f, idField f v ∈ f.listed := by
  rw [mem_listedFields_iff]
  constructor
  · rintro ⟨hsrmask, he3dse, hrmegdi, he2h0, hnvFrac, hfgwte3, hhacdbs, hasid2, heiesb, hpops⟩ f
    cases f <;> assumption
  · intro h
    exact ⟨h .srmask, h .e3dse, h .rmegdi, h .e2h0, h .nvFrac, h .fgwte3, h .hacdbs, h .asid2, h .eiesb, h .pops⟩

/-- Settles O30: the values are those that the choices of listed fields make, and packing is injective since slicing undoes it. -/
theorem exactlyThisManyValuesPassTheChecks : Obligations.ExactlyThisManyValuesPassTheChecks := by
  have hinjective : Function.Injective idValueOfFields := Function.LeftInverse.injective idFieldsOfValue_idValueOfFields
  refine ⟨listedFields.map idValueOfFields, listedFields_nodup.map hinjective, by simp [listedFields_length], fun v => ?_⟩
  rw [passesValueChecks_iff, ← idFieldsOfValue_mem_listedFields_iff, List.mem_map]
  constructor
  · rintro ⟨f, hf, rfl⟩
    exact ⟨res0RangesZero_idValueOfFields f, by rwa [idFieldsOfValue_idValueOfFields]⟩
  · rintro ⟨hres0, hlisted⟩
    exact ⟨_, hlisted, idValueOfFields_idFieldsOfValue hres0⟩

/-! ### The checks as arithmetic -/

/-- A field as a number of the register's value (00_scope.md R8). -/
theorem idField_toNat (f : IdField) (v : Word) : (idField f v).toNat = v.toNat / 2 ^ f.lo % 16 := by
  simp [idField, BitVec.extractLsb'_toNat, Nat.shiftRight_eq_div_pow]

theorem idField_beq_iff (f : IdField) (v : Word) (n : BitVec 4) :
    (idField f v == n) = true ↔ v.toNat / 2 ^ f.lo % 16 = n.toNat := by
  rw [beq_iff_eq, ← BitVec.toNat_inj, idField_toNat]

theorem fieldListed_iff_le_one {f : IdField} (hf : f.listed = [0b0000#4, 0b0001#4]) (v : Word) :
    fieldListed f v = true ↔ v.toNat / 2 ^ f.lo % 16 ≤ 1 := by
  have hlisted : ∀ x : BitVec 4, x ∈ [0b0000#4, 0b0001#4] ↔ x.toNat ≤ 1 := by decide
  rw [fieldListed_iff, hf, hlisted, idField_toNat]

theorem fieldListed_e2h0_iff (v : Word) :
    fieldListed .e2h0 v = true ↔
      v.toNat / 2 ^ 24 % 16 = 0 ∨ v.toNat / 2 ^ 24 % 16 = 14 ∨ v.toNat / 2 ^ 24 % 16 = 15 := by
  have hlisted : ∀ x : BitVec 4, x ∈ IdField.e2h0.listed ↔ x.toNat = 0 ∨ x.toNat = 14 ∨ x.toNat = 15 := by decide
  rw [fieldListed_iff, hlisted, idField_toNat, IdField.lo]

theorem fieldListed_nvFrac_iff (v : Word) : fieldListed .nvFrac v = true ↔ v.toNat / 2 ^ 20 % 16 ≤ 2 := by
  have hlisted : ∀ x : BitVec 4, x ∈ IdField.nvFrac.listed ↔ x.toNat ≤ 2 := by decide
  rw [fieldListed_iff, hlisted, idField_toNat, IdField.lo]

theorem fieldListed_eiesb_iff (v : Word) :
    fieldListed .eiesb v = true ↔ v.toNat / 2 ^ 4 % 16 ≤ 2 ∨ v.toNat / 2 ^ 4 % 16 = 15 := by
  have hlisted : ∀ x : BitVec 4, x ∈ IdField.eiesb.listed ↔ x.toNat ≤ 2 ∨ x.toNat = 15 := by decide
  rw [fieldListed_iff, hlisted, idField_toNat, IdField.lo]

theorem res0RangesZero_iff_toNat (v : Word) :
    res0RangesZero v = true ↔
      v.toNat / 2 ^ 48 = 0 ∧ v.toNat / 2 ^ 40 % 16 = 0 ∧ v.toNat / 2 ^ 32 % 16 = 0 := by
  have htop : v.toNat / 2 ^ 48 < 2 ^ 16 := by omega
  simp only [res0RangesZero_iff, ← BitVec.toNat_inj, BitVec.extractLsb'_toNat, Nat.shiftRight_eq_div_pow,
    Nat.mod_eq_of_lt htop]
  rfl

/-- A check of the form "`a`, or else `b`". -/
theorem or_eq_true_iff_not_imp (a b : Bool) : (a || b) = true ↔ (¬ a = true → b = true) := by
  cases a <;> simp

/-- The nineteen checks one after the other (10_state.md R42). -/
theorem Config.wellFormed_iff_each_check (cfg : Config) :
    cfg.wellFormed = true ↔
      checkHolds cfg .res0 = true ∧ checkHolds cfg .srmask = true ∧ checkHolds cfg .srmaskV96 = true ∧
      checkHolds cfg .e3dse = true ∧ checkHolds cfg .rmegdi = true ∧ checkHolds cfg .e2h0 = true ∧
      checkHolds cfg .e2h0Nv = true ∧ checkHolds cfg .e2h0Vhe = true ∧ checkHolds cfg .nvFrac = true ∧
      checkHolds cfg .nvFracNv = true ∧ checkHolds cfg .fgwte3 = true ∧ checkHolds cfg .hacdbs = true ∧
      checkHolds cfg .asid2 = true ∧ checkHolds cfg .asid2V95 = true ∧ checkHolds cfg .eiesb = true ∧
      checkHolds cfg .eiesbIesb = true ∧ checkHolds cfg .pops = true ∧ checkHolds cfg .versions = true ∧
      checkHolds cfg .aa64 = true := by
  simp only [Config.wellFormed, WfCheck.all, List.all_cons, List.all_nil, Bool.and_true, Bool.and_eq_true]

/-- Settles O31: each check is its line of arithmetic. -/
theorem wellFormedConfigurationsAreTheSpecs : Obligations.WellFormedConfigurationsAreTheSpecs := by
  intro cfg
  rw [Config.wellFormed_iff_each_check]
  simp only [checkHolds, res0RangesZero_iff_toNat, fieldListed_iff_le_one (f := .srmask) rfl,
    fieldListed_iff_le_one (f := .e3dse) rfl, fieldListed_iff_le_one (f := .rmegdi) rfl,
    fieldListed_iff_le_one (f := .fgwte3) rfl, fieldListed_iff_le_one (f := .hacdbs) rfl,
    fieldListed_iff_le_one (f := .asid2) rfl, fieldListed_iff_le_one (f := .pops) rfl, fieldListed_e2h0_iff,
    fieldListed_nvFrac_iff, fieldListed_eiesb_iff, or_eq_true_iff_not_imp, Bool.not_eq_true', Bool.not_eq_false,
    idField_beq_iff, IdField.lo, BitVec.reduceToNat, Bool.and_eq_true, and_assoc, ne_eq]

/-- Settles O32: every field is 0, and the laws that ask for another value are those of later versions. -/
theorem zeroRegisterIsALegalConfiguration : Obligations.ZeroRegisterIsALegalConfiguration := by
  intro cfg hzero haa64 hv95 hv96
  rw [wellFormedConfigurationsAreTheSpecs]
  simp [hzero, haa64, hv95, hv96]

end Sys2Proof
end

section
/-! Proofs of the family other: what fields of the register promise of other parts of the machine, and the syndrome of a trapped
read. -/

namespace Sys2Proof

/-! ### The Error synchronization event -/

/-- With SCTLR_ELx.IESB at 0 nothing is promised (10_state.md R36). -/
theorem errorSyncPromise_of_iesb_zero {c : ErrorSyncContext} (hiesb : c.iesb = 0#1) (v : BitVec 4) :
    errorSyncPromise v c = .notDescribed := by
  simp [errorSyncPromise, hiesb]

/-- What the rows of the EIESB table promise with SCTLR_ELx.IESB at 1 (10_state.md R35). -/
theorem errorSyncPromise_of_iesb_one {c : ErrorSyncContext} (hiesb : c.iesb = 1#1) :
    errorSyncPromise 0b0001#4 c = (if el3RowApplies c then .before else .notDescribed) ∧
    errorSyncPromise 0b0010#4 c =
      (if el3RowApplies c || el1RowApplies c || el2RowApplies c then .before else .notDescribed) ∧
    errorSyncPromise 0b1111#4 c = (if el3RowApplies c then .mightBeAfter else .notDescribed) ∧
    errorSyncPromise 0b0000#4 c = .notDescribed := by
  simp [errorSyncPromise, hiesb, eiesbMeaning]

theorem el3RowApplies_iff (c : ErrorSyncContext) :
    el3RowApplies c = true ↔
      c.target = .el3 ∧ c.serrorRoutedTo = .el3 ∧ (c.featDoubleFault = false ∨ c.scrEl3Nmea = 1#1) := by
  simp [el3RowApplies, and_assoc]

theorem el1RowApplies_iff (c : ErrorSyncContext) :
    el1RowApplies c = true ↔
      c.target = .el1 ∧ c.serrorRoutedTo = .el1 ∧ (c.featDoubleFault2 = false ∨ c.sctlr2El1Nmea = 1#1) := by
  simp [el1RowApplies, and_assoc]

theorem el2RowApplies_iff (c : ErrorSyncContext) :
    el2RowApplies c = true ↔
      c.target = .el2 ∧ c.serrorRoutedTo = .el2 ∧ (c.featDoubleFault2 = false ∨ c.sctlr2El2Nmea = 1#1) := by
  simp [el2RowApplies, and_assoc]

/-- Settles O35: each value's promise is its row's, and each row's condition is the one the table prints. -/
theorem eiesbPromisesItsRowsAndNoMore : Obligations.EiesbPromisesItsRowsAndNoMore := by
  refine fun c => ⟨errorSyncPromise_of_iesb_zero, fun hiesb => ?_⟩
  obtain ⟨h0001, h0010, h1111, h0000⟩ := errorSyncPromise_of_iesb_one hiesb
  simp only [← el3RowApplies_iff, ← el1RowApplies_iff, ← el2RowApplies_iff, h0001, h0010, h1111, h0000, Bool.or_eq_true,
    or_assoc]
  refine ⟨?_, ?_, ?_, ?_, ?_, ?_, trivial⟩ <;> split_ifs with hrow <;> simp [hrow]

/-- Settles O36: only the promise "before" fixes the placement. -/
theorem undescribedErrorSyncPlacementIsFree : Obligations.UndescribedErrorSyncPlacementIsFree := by
  intro v c n
  cases hpromise : errorSyncPromise v c with
  | before => simp [errorSyncPlacement, hpromise]
  | mightBeAfter => simp [errorSyncPlacement, hpromise]
  | notDescribed => simp [errorSyncPlacement, hpromise]

/-- Settles O37: before the exception the three conditions decide, after it none is asked. -/
theorem sErrorIsTakenInPlaceOfTheOriginal : Obligations.SErrorIsTakenInPlaceOfTheOriginal := by
  intro p pends masked disabled
  cases p with
  | before => simp [exceptionTaken, and_assoc]
  | after => simp [exceptionTaken]

/-! ### PoPS -/

theorem popsInstructions_of_pops {cfg : Config} (hpops : idField .pops cfg.idmmfr4 = 0b0001#4) (mte2 : Bool) :
    popsInstructions cfg mte2 = if mte2 then [.dcCivaps, .dcCigdvaps] else [.dcCivaps] := by
  simp [popsInstructions, hpops]

theorem popsInstructions_of_not_pops {cfg : Config} (hpops : idField .pops cfg.idmmfr4 ≠ 0b0001#4) (mte2 : Bool) :
    popsInstructions cfg mte2 = [] := by
  simp [popsInstructions, hpops]

/-- Settles O38: with PoPS the second instruction waits for FEAT_MTE2, without it there is neither. -/
theorem popsAdvertisesItsInstructions : Obligations.PopsAdvertisesItsInstructions := by
  intro cfg mte2
  change (_ ↔ idField .pops cfg.idmmfr4 = 0b0001#4) ∧ (_ ↔ idField .pops cfg.idmmfr4 = 0b0001#4 ∧ _)
  by_cases hpops : idField .pops cfg.idmmfr4 = 0b0001#4
  · rw [popsInstructions_of_pops hpops]
    cases mte2 <;> simp [hpops]
  · simp [popsInstructions_of_not_pops hpops, hpops]

/-! ### The syndrome -/

/-- Settles O39: the destination stands alone in bits [9:5], as each of its 32 values shows. -/
theorem trapSyndromeIsThisNumber : Obligations.TrapSyndromeIsThisNumber := by
  unfold Obligations.TrapSyndromeIsThisNumber
  decide

end Sys2Proof
end
